-- ==== Sys2Proof/Word.lean ====
section
/-! DEFINITION. The word types of the CDU and their plainest arithmetic.
Every register value is an unsigned integer of the register's width (`00_scope.md` R6, R15). -/

namespace Sys2Proof

/-- An operation word, `w[31:0]` (`30_encoding.md` R80). -/
abbrev Word := BitVec 32

/-- A 16-bit register or immediate (`10_state.md` R27, R29, R33 to R36; `30_encoding.md` R81). -/
abbrev Half := BitVec 16

/-- An 8-bit value: a segment pattern or one byte of a 16-bit register. -/
abbrev Byte := BitVec 8

end Sys2Proof
end

