-- ==== Sys2Proof/Config.lean ====
section
/-! DEFINITION. The parameters of the CDU (`00_scope.md` R5).
Fixed parameters are constants. OPEN parameters are "an argument of the model": they are the fields of
`Params` and `Program`, plain data that `State` carries and no step changes, so a statement about every
state is a statement about every value of them (log 1, log 2). -/

namespace Sys2Proof

/-! ## Fixed parameters -/

/-- `DIGIT_MAX` (R5). -/
def Config.digitMax : Nat := 9

/-- `N_POS`, the number of digit positions (R5). -/
def Config.nPos : Nat := 4

/-- `CLAMP_MAX` (R5, R17). -/
def Config.clampMax : Nat := 9999

/-- `CM_DIVISOR` (R5, `42_host.md` R174). -/
def Config.cmDivisor : Half := 58

/-- `TRIG_US`, the width of the trigger pulse in microseconds (R5, D23). -/
def Config.trigUs : Nat := 10

/-- The three values of `CADENCE`: `CAD_FAST`, `CAD_SLOW`, `CAD_OFF` (R5, `10_state.md` R35). -/
inductive Preset where
  | fast
  | slow
  | off
  deriving DecidableEq, Repr

/-- The number of main-loop iterations a preset stands for (R5). -/
def Preset.value : Preset → Half
  | .fast => 10
  | .slow => 1000
  | .off => 65535

/-! ## OPEN parameters -/

/-- The OPEN parameters of R5 other than `PROGRAM`. -/
structure Params where
  /-- `TICKS_PER_US`, a natural number. -/
  ticksPerUs : Nat
  /-- `TICKS_PER_US` is at least 1. -/
  ticksPerUs_pos : 1 ≤ ticksPerUs := by decide
  /-- `SETTLE_MS`, a natural number. -/
  settleMs : Nat
  /-- `CADENCE_RESET`, one of the three presets. -/
  cadenceReset : Preset
  /-- `ECHO_RESET`, the level of the echo line at reset. -/
  echoReset : Bool
  /-- `CSEL_RESET`, the levels of the cadence-select lines at reset. -/
  cselReset : BitVec 3
  /-- `SEGTAB`, ten entries of eight bits (`20_memory.md` R61). -/
  segtab : Vector Byte 10
  deriving DecidableEq, Repr

/-- The default `SEGTAB` of `20_memory.md` R61: the canonical glyphs, which the spec itself takes from
general knowledge (PRESUMED, log 10). -/
def Config.defaultSegtab : Vector Byte 10 :=
  #v[0xC0, 0xF9, 0xA4, 0xB0, 0x99, 0x92, 0x82, 0xF8, 0x80, 0x90]

/-- The parameter values `State.reset` carries: the defaults of R5 and R61 and, for the OPEN ones
without a default, the test configuration of `95_test_vectors.md` section 0 (DESIGN CHOICE, log 2). -/
def Config.params : Params where
  ticksPerUs := 1
  settleMs := 1
  cadenceReset := .slow
  echoReset := true
  cselReset := 0b111
  segtab := Config.defaultSegtab

/-- What the spec says of every value of `SEGTAB`: its entries are pairwise different (R61, R109) and never
light the decimal point (R61, D35; log 19). -/
abbrev Params.wf (p : Params) : Prop :=
  (∀ i j : Fin 10, p.segtab[i] = p.segtab[j] → i = j) ∧
  (∀ i : Fin 10, p.segtab[i].getLsbD 7 = true)

/-- Arbitrary functions from natural numbers to optional words, one for each first argument. They have no
body, so nothing can be proved of one that is not true of every such function (log 1). -/
opaque Config.freeProgram : Nat → Nat → Option Word

/-- What `PROGRAM(k)` is for the indices `k` a program does not list. -/
inductive ProgramTail where
  /-- These entries over and over, the one for `k` at place `k` modulo their number; "undefined" everywhere
  when there are none. -/
  | repeating (period : List (Option Word))
  /-- Any function whatever, `Config.freeProgram which`. -/
  | free (which : Nat)
  deriving DecidableEq, Repr

/-- `PROGRAM`, "function from natural numbers to optional 32-bit words" (R5, D26), as plain data: the
words (or gaps) listed for indices 0, 1, …, and what every later index holds (log 1). A finite program has
`tail = .repeating []`; the firmware program of `42_host.md` R179 has `tail = .repeating [some MAIN_ITER]`;
`⟨[], .free n⟩` is an arbitrary function. -/
structure Program where
  /-- `PROGRAM(0)`, `PROGRAM(1)`, … -/
  cells : List (Option Word)
  /-- `PROGRAM(k)` for every `k` past the listed ones. -/
  tail : ProgramTail
  deriving DecidableEq, Repr

/-- `PROGRAM` undefined everywhere: nothing has been loaded (log 9). -/
def Program.empty : Program := ⟨[], .repeating []⟩

end Sys2Proof
end

