-- ==== Sys2Proof/Syntax.lean ====
section
/-! DEFINITION. The operations of CDU-OPS 1, one constructor per row of `30_encoding.md` R83.
An operand has the type of its field (R81, R82), so a constructor holds every decoded value, the ones
outside the legal range too: those are refused when the operation is performed (R86). The delay operands
are natural numbers because SHOW_DIGIT queues `DELAY_MS SETTLE_MS` with `SETTLE_MS` any natural number
(R5, R107); in a word they have 16 bits (log 14). -/

namespace Sys2Proof

inductive Instr where
  -- timing primitive (`41_capture.md` R130 to R133)
  | treset
  | tstart
  | tstop
  | tread
  -- critical-section read (`41_capture.md` R143 to R147)
  | irqDis
  | irqEn
  | rdptl
  | rdpth
  | snapshot
  -- display (`40_display.md` R100 to R108)
  | enc (d : BitVec 4)
  | posBlank
  | segOff
  | segSet
  | posSel (p : BitVec 3)
  | showDigit (d : BitVec 4) (p : BitVec 3)
  | dispnum (v : Half)
  | delayUs (n : Nat)
  | delayMs (n : Nat)
  -- host level (`42_host.md` R170 to R178)
  | trigHi
  | trigLo
  | trigger
  | selcad
  | conv
  | iterInc
  | iterClr
  | miCheck
  | mainIter
  -- stimulus words (`43_environment.md` R190 to R195)
  | evEcho (l : Bool)
  | evTick (n : Half)
  | evCsel (c : BitVec 3)
  | evRun (n : Half)
  | evReset
  deriving DecidableEq, Repr

/-- The column "kind" of R83. -/
inductive Kind where
  | prim
  | comp
  | stim
  deriving DecidableEq, Repr

/-- The kind R83 gives each operation. -/
def Instr.kind : Instr → Kind
  | .snapshot | .showDigit _ _ | .dispnum _ | .trigger | .miCheck | .mainIter => .comp
  | .evEcho _ | .evTick _ | .evCsel _ | .evRun _ | .evReset => .stim
  | .treset | .tstart | .tstop | .tread | .irqDis | .irqEn | .rdptl | .rdpth
  | .enc _ | .posBlank | .segOff | .segSet | .posSel _ | .delayUs _ | .delayMs _
  | .trigHi | .trigLo | .selcad | .conv | .iterInc | .iterClr => .prim

/-- A stimulus word, legal only in a schedule (R87). -/
def Instr.isStimulus (i : Instr) : Bool := i.kind == .stim

/-- A timer command that writes the counter or its run bit: the ones a program must not issue to keep the
capture guarantee (`70_reset_and_hazards.md` R241; TREAD is harmless). -/
def Instr.writesTimer : Instr → Bool
  | .treset | .tstart | .tstop => true
  | .tread | .irqDis | .irqEn | .rdptl | .rdpth | .snapshot
  | .enc _ | .posBlank | .segOff | .segSet | .posSel _ | .showDigit _ _ | .dispnum _
  | .delayUs _ | .delayMs _ | .trigHi | .trigLo | .trigger | .selcad | .conv
  | .iterInc | .iterClr | .miCheck | .mainIter
  | .evEcho _ | .evTick _ | .evCsel _ | .evRun _ | .evReset => false

end Sys2Proof
end

