-- ==== Sys2Proof/WellFormed.lean ====
section
/-! DEFINITION. Which operations are well formed: the operand fits the field of its word
(`30_encoding.md` R81, R82) and lies in the legal range (R82, R86). -/

namespace Sys2Proof

/-- A digit operand is legal: 0..9 (R82, `40_display.md` R100). -/
def legalDigit (d : BitVec 4) : Bool := decide (d.toNat ≤ Config.digitMax)

/-- A position operand is legal: 1..4 (R82, `40_display.md` R104). -/
def legalPosition (p : BitVec 3) : Bool := decide (1 ≤ p.toNat ∧ p.toNat ≤ Config.nPos)

/-- The operand fits the 16-bit immediate field (R81); every other operand's type is its field. -/
def Instr.encodable : Instr → Bool
  | .delayUs n | .delayMs n => decide (n < 65536)
  | .treset | .tstart | .tstop | .tread | .irqDis | .irqEn | .rdptl | .rdpth | .snapshot
  | .enc _ | .posBlank | .segOff | .segSet | .posSel _ | .showDigit _ _ | .dispnum _
  | .trigHi | .trigLo | .trigger | .selcad | .conv | .iterInc | .iterClr | .miCheck | .mainIter
  | .evEcho _ | .evTick _ | .evCsel _ | .evRun _ | .evReset => true

/-- The operands lie in their legal ranges (R86): outside them the operation is refused when performed. -/
def Instr.legal : Instr → Bool
  | .enc d => legalDigit d
  | .posSel p => legalPosition p
  | .showDigit d p => legalDigit d && legalPosition p
  | .treset | .tstart | .tstop | .tread | .irqDis | .irqEn | .rdptl | .rdpth | .snapshot
  | .posBlank | .segOff | .segSet | .dispnum _ | .delayUs _ | .delayMs _
  | .trigHi | .trigLo | .trigger | .selcad | .conv | .iterInc | .iterClr | .miCheck | .mainIter
  | .evEcho _ | .evTick _ | .evCsel _ | .evRun _ | .evReset => true

/-- Well formed: encodable and legal. -/
def Instr.wellFormed (i : Instr) : Bool := i.encodable && i.legal

end Sys2Proof
end

