-- ==== Sys2Proof/Decode.lean ====
section
/-! DEFINITION. Decoding (`30_encoding.md` R84), a total function from 32-bit words to an operation or a
named rejection, and the encoder written from the same tables (R81, R83). A word is a 32-bit value, not a
byte string, and has no byte order (R80). -/

namespace Sys2Proof

/-- Why a word is `Invalid` (R84): both are reserved encodings (R85). -/
inductive DecodeError where
  /-- The opcode is not in the table of R83. -/
  | reservedOpcode
  /-- A must-be-zero bit is 1. -/
  | nonzeroReservedBit
  deriving DecidableEq, Repr

/-- The formats of R81. -/
inductive Format where
  | N
  | I
  | D
  | P
  | DP
  | L
  | C
  deriving DecidableEq, Repr

/-- The column "mask" of R81: the opcode and the must-be-zero bits. -/
def Format.mask : Format → Word
  | .N => 0xFFFFFFFF
  | .I => 0xFFFF0000
  | .D => 0xFFFFFFF0
  | .P => 0xFFFFFF8F
  | .DP => 0xFFFFFF80
  | .L => 0xFFFFFFFE
  | .C => 0xFFFFFFF8

/-! ## Fields (R80, R82) -/

/-- `op = w[31:24]`. -/
def opcode (w : Word) : Byte := w.extractLsb' 24 8

/-- `imm16 = w[15:0]`. -/
def immField (w : Word) : Half := w.extractLsb' 0 16

/-- `d = w[3:0]`. -/
def digitField (w : Word) : BitVec 4 := w.extractLsb' 0 4

/-- `p = w[6:4]`. -/
def positionField (w : Word) : BitVec 3 := w.extractLsb' 4 3

/-- `l = w[0]`, a logic level. -/
def levelField (w : Word) : Bool := w.getLsbD 0

/-- `c = w[2:0]`, the levels of `CSEL[2:0]`. -/
def linesField (w : Word) : BitVec 3 := w.extractLsb' 0 3

/-- The rows of R83: the format of each opcode and the operation its fields make. -/
def row (op : Nat) (w : Word) : Option (Format × Instr) :=
  match op with
  | 0x01 => some (.N, .treset)
  | 0x02 => some (.N, .tstart)
  | 0x03 => some (.N, .tstop)
  | 0x04 => some (.N, .tread)
  | 0x10 => some (.N, .irqDis)
  | 0x11 => some (.N, .irqEn)
  | 0x12 => some (.N, .rdptl)
  | 0x13 => some (.N, .rdpth)
  | 0x14 => some (.N, .snapshot)
  | 0x20 => some (.D, .enc (digitField w))
  | 0x21 => some (.N, .posBlank)
  | 0x22 => some (.N, .segOff)
  | 0x23 => some (.N, .segSet)
  | 0x24 => some (.P, .posSel (positionField w))
  | 0x28 => some (.DP, .showDigit (digitField w) (positionField w))
  | 0x29 => some (.I, .dispnum (immField w))
  | 0x30 => some (.I, .delayUs (immField w).toNat)
  | 0x31 => some (.I, .delayMs (immField w).toNat)
  | 0x40 => some (.N, .trigHi)
  | 0x41 => some (.N, .trigLo)
  | 0x42 => some (.N, .trigger)
  | 0x43 => some (.N, .selcad)
  | 0x44 => some (.N, .conv)
  | 0x45 => some (.N, .iterInc)
  | 0x46 => some (.N, .iterClr)
  | 0x47 => some (.N, .miCheck)
  | 0x4F => some (.N, .mainIter)
  | 0xE0 => some (.L, .evEcho (levelField w))
  | 0xE1 => some (.I, .evTick (immField w))
  | 0xE2 => some (.C, .evCsel (linesField w))
  | 0xE3 => some (.I, .evRun (immField w))
  | 0xEF => some (.N, .evReset)
  | _ => none

/-- R84: take the opcode's row; the word belongs to it when `(w AND mask) = op << 24`. -/
def decode (w : Word) : Except DecodeError Instr :=
  match row (opcode w).toNat w with
  | none => .error .reservedOpcode
  | some (fmt, i) =>
    if w &&& fmt.mask = (opcode w).setWidth 32 <<< 24 then .ok i else .error .nonzeroReservedBit

/-! ## Encoding -/

/-- A word from its opcode and its 24 operand bits (R80). -/
def packWord (op : Byte) (fields : BitVec 24) : Word := op ++ fields

/-- Operand bits of formats N, I, D, P, DP, L, C (R81): every bit outside a field is 0. -/
def packImm (n : Half) : BitVec 24 := (0 : Byte) ++ n

@[inherit_doc packImm]
def packDigitPosition (d : BitVec 4) (p : BitVec 3) : BitVec 24 := (0 : BitVec 17) ++ p ++ d

@[inherit_doc packImm]
def packLevel (l : Bool) : BitVec 24 := (0 : BitVec 23) ++ BitVec.ofBool l

@[inherit_doc packImm]
def packLines (c : BitVec 3) : BitVec 24 := (0 : BitVec 21) ++ c

/-- The word of an operation (R81, R83). A delay operand that does not fit 16 bits is no word's operand:
`Instr.encodable` rules it out. -/
def encode : Instr → Word
  | .treset => packWord 0x01 0
  | .tstart => packWord 0x02 0
  | .tstop => packWord 0x03 0
  | .tread => packWord 0x04 0
  | .irqDis => packWord 0x10 0
  | .irqEn => packWord 0x11 0
  | .rdptl => packWord 0x12 0
  | .rdpth => packWord 0x13 0
  | .snapshot => packWord 0x14 0
  | .enc d => packWord 0x20 (packDigitPosition d 0)
  | .posBlank => packWord 0x21 0
  | .segOff => packWord 0x22 0
  | .segSet => packWord 0x23 0
  | .posSel p => packWord 0x24 (packDigitPosition 0 p)
  | .showDigit d p => packWord 0x28 (packDigitPosition d p)
  | .dispnum v => packWord 0x29 (packImm v)
  | .delayUs n => packWord 0x30 (packImm (BitVec.ofNat 16 n))
  | .delayMs n => packWord 0x31 (packImm (BitVec.ofNat 16 n))
  | .trigHi => packWord 0x40 0
  | .trigLo => packWord 0x41 0
  | .trigger => packWord 0x42 0
  | .selcad => packWord 0x43 0
  | .conv => packWord 0x44 0
  | .iterInc => packWord 0x45 0
  | .iterClr => packWord 0x46 0
  | .miCheck => packWord 0x47 0
  | .mainIter => packWord 0x4F 0
  | .evEcho l => packWord 0xE0 (packLevel l)
  | .evTick n => packWord 0xE1 (packImm n)
  | .evCsel c => packWord 0xE2 (packLines c)
  | .evRun n => packWord 0xE3 (packImm n)
  | .evReset => packWord 0xEF 0

/-! ## The host's view of the decoder -/

/-- The word whose bits `opcode_table.json` numbers as `w`, with every bit from `nbits` on 0. -/
def tableWord (nbits w : Nat) : Word := BitVec.ofNat 32 (w % 2 ^ nbits)

/-- The operation the decoder reads from a table word. An operation word has exactly 32 bits (R80), so
nothing longer decodes. -/
def decodeTableWord (nbits w : Nat) : Option Instr :=
  if nbits ≤ 32 then
    match decode (tableWord nbits w) with
    | .ok i => some i
    | .error _ => none
  else none

end Sys2Proof
end

