-- ==== Sys2Proof/Machine/State.lean ====
section
/-! DEFINITION. The state of the CDU (`10_state.md`), the reasons a step can stop, and the state after
reset (`10_state.md` R44). The CDU has no addressable memory (`20_memory.md` R60), so State has none. -/

namespace Sys2Proof.Machine

/-- `EDGE_STATE` (`10_state.md` R26): Idle waits for a falling edge, Timing for a rising edge. The bit
encoding 0, 1 is not observable (D4). -/
inductive EdgeState where
  | idle
  | timing
  deriving DecidableEq, Repr

/-- What is left of the EV_RUN in progress (`43_environment.md` R195), a field of the model's own (log 8). -/
inductive Budget where
  /-- No EV_RUN is in progress. -/
  | idle
  /-- At most this many sequencer steps are left. -/
  | upTo (n : Nat)
  /-- EV_RUN 0: sequencer steps until none is enabled. -/
  | unlimited
  deriving DecidableEq, Repr

/-- The CDU raises no synchronous exception and a step has two outcomes, the next state and Refuse
(`60_exceptions.md` R200, `00_scope.md` R11): there is no fault (log 16). -/
inductive Fault where
  deriving DecidableEq, Repr

/-- The reasons of the outcome Refuse, a closed list (`60_exceptions.md` R213), and the host's. A refusal
comes before the step changes any state. All are safe: the model stops where the source gives no behaviour. -/
inductive Refusal where
  /-- An arm of `exec` that has no meaning yet (none is left in this model). Safe. -/
  | notModelled (mnemonic : String)
  /-- Raised by ENC and SHOW_DIGIT with a digit above 9 (R86). Safe. -/
  | digitOutOfRange
  /-- Raised by POS_SEL and SHOW_DIGIT with a position outside 1..4 (R86). Safe. -/
  | positionOutOfRange
  /-- Raised by the fetch of a word that does not decode, from the program or the schedule (R85). Safe. -/
  | reservedEncoding
  /-- Raised by the fetch of a stimulus word from the program (R87). Safe. -/
  | stimulusInProgram
  /-- Raised by taking a word that is no stimulus word from a schedule (R87). Safe. -/
  | commandInSchedule
  deriving DecidableEq, Repr

structure State where
  -- ports (R20 to R25); a level is true for 1
  echo : Bool
  csel : BitVec 3
  /-- The reset input (R20): true while a reset is asserted and not yet taken (log 6). -/
  rst : Bool
  trig : Bool
  pos : BitVec 4
  seg : Byte
  -- capture registers (R26 to R31)
  edgeState : EdgeState
  cnt : Half
  run : Bool
  pulseTicks : Half
  ie : Bool
  ipend : Bool
  -- display register (R32)
  pat : Byte
  -- sequencer registers (R33 to R36)
  snap : Half
  distanceCm : Half
  cadence : Half
  iter : Half
  -- hidden state (R37 to R39)
  dly : Nat
  uq : List Instr
  pcidx : Nat
  -- parameters (`00_scope.md` R5), changed by no step (log 1, log 2)
  params : Params
  program : Program
  -- the run (`43_environment.md` R195), the model's own (log 4, log 8)
  schedule : List Word
  budget : Budget
  deriving DecidableEq, Repr

/-- The state a run starts in (`10_state.md` R44), for given parameters, program and schedule. -/
def State.powerOn (p : Params) (prog : Program) (sched : List Word) : State where
  echo := p.echoReset
  csel := p.cselReset
  rst := false
  trig := false
  pos := 0b1111
  seg := 0xFF
  edgeState := .idle
  cnt := 0
  run := false
  pulseTicks := 0
  ie := false
  ipend := false
  pat := 0xFF
  snap := 0
  distanceCm := 0
  cadence := p.cadenceReset.value
  iter := 0
  dly := 0
  uq := []
  pcidx := 0
  params := p
  program := prog
  schedule := sched
  budget := .idle

/-- The machine right after reset (R44), with the parameter values log 2 names, no program loaded (log 9)
and an empty schedule. -/
def State.reset : State := State.powerOn Config.params Program.empty []

end Sys2Proof.Machine
end

