-- ==== Sys2Proof/Machine/Flags.lean ====
section
/-! DEFINITION. The single-bit state `EDGE_STATE`, `RUN`, `IE`, `IPEND` (`10_state.md` R42): what reads and
writes each. None is a condition code: no arithmetic sets a flag (`00_scope.md` R18). -/

namespace Sys2Proof.Machine

/-- Writes `EDGE_STATE` (`10_state.md` R26). -/
def State.setEdge (s : State) (e : EdgeState) : State := { s with edgeState := e }

/-- Writes `RUN` (`10_state.md` R28). -/
def State.setRun (s : State) (b : Bool) : State := { s with run := b }

/-- Writes `IE` (`10_state.md` R30). -/
def State.setIe (s : State) (b : Bool) : State := { s with ie := b }

/-- Writes `IPEND` (`10_state.md` R31). -/
def State.setIpend (s : State) (b : Bool) : State := { s with ipend := b }

/-- An IRQ step is enabled exactly when `IPEND = 1` and `IE = 1` (`00_scope.md` R9(1), R202). -/
def State.irqEnabled (s : State) : Bool := s.ipend && s.ie

end Sys2Proof.Machine
end

