-- ==== Sys2Proof/Machine/Operands.lean ====
section
/-! DEFINITION. The operand forms of the operations and the values they compute from operands: table
lookup, position pattern, byte slices, the preset a select line picks, the digits of a number, the ticks of
a delay. -/

namespace Sys2Proof.Machine

/-- `if d > 9 then refuse(DigitOutOfRange)` (`40_display.md` R107, `30_encoding.md` R86). -/
def digitRefusal? (d : BitVec 4) : Option Refusal :=
  if d.toNat > Config.digitMax then some .digitOutOfRange else none

/-- `if p = 0 or p > 4 then refuse(PositionOutOfRange)` (`40_display.md` R104, `30_encoding.md` R86). -/
def positionRefusal? (p : BitVec 3) : Option Refusal :=
  if p.toNat = 0 ∨ p.toNat > Config.nPos then some .positionOutOfRange else none

/-- `SEGTAB[d]` (`20_memory.md` R61); indices 10 to 15 do not exist. -/
def segtab? (p : Params) (d : BitVec 4) : Option Byte := p.segtab[d.toNat]?

/-- The position lines with exactly the line of position `p` asserted: `0b1111` with bit `p - 1` cleared
(`40_display.md` R104). -/
def positionPattern (p : BitVec 3) : BitVec 4 := ~~~((1 : BitVec 4) <<< (p.toNat - 1))

/-- The low byte, bits 7:0 (`20_memory.md` R63). -/
def lowByte (v : Half) : Byte := v.extractLsb' 0 8

/-- The high byte, bits 15:8 (`20_memory.md` R63). -/
def highByte (v : Half) : Byte := v.extractLsb' 8 8

/-- A 16-bit value from its high and its low byte. -/
def joinBytes (high low : Byte) : Half := high ++ low

/-- The preset the select lines pick, active low, line0 before line1 before line2 (`42_host.md` R173);
`none` when no line is low. -/
def selectedPreset (csel : BitVec 3) : Option Preset :=
  if csel.getLsbD 0 = false then some .fast
  else if csel.getLsbD 1 = false then some .slow
  else if csel.getLsbD 2 = false then some .off
  else none

/-- `DLY` for a microsecond delay: `n * TICKS_PER_US` (`40_display.md` R105). -/
def microsecondTicks (p : Params) (n : Nat) : Nat := n * p.ticksPerUs

/-- `DLY` for a millisecond delay: `n * 1000 * TICKS_PER_US` (`40_display.md` R106). -/
def millisecondTicks (p : Params) (n : Nat) : Nat := n * 1000 * p.ticksPerUs

/-- The while loop of `40_display.md` R108, with both of its tests (R111); the first argument bounds the
number of rounds for Lean and is never what ends it from `digitStrobes`. -/
def digitLoop : Nat → Nat → Nat → List Instr
  | 0, _, _ => []
  | rounds + 1, u, pos =>
    if u ≠ 0 ∧ pos ≤ Config.nPos then
      .showDigit (BitVec.ofNat 4 (u % 10)) (BitVec.ofNat 3 pos) :: digitLoop rounds (u / 10) (pos + 1)
    else []

/-- The list DISPNUM pushes for the value `v` (`40_display.md` R108): clamp, the bare zero, the loop. -/
def digitStrobes (v : Half) : List Instr :=
  let u := min v.toNat Config.clampMax
  if u = 0 then [.showDigit 0 1] else digitLoop (Config.nPos + 1) u 1

end Sys2Proof.Machine
end

