-- ==== Sys2Proof/Machine/Ops.lean ====
section
/-! DEFINITION. The named operations over the registers that the meanings share: one writer per register,
the command program,
the queue, the counter, the tick, the edge detector, taking the interrupt, reset. The CDU has no memory
operations (`20_memory.md` R60). -/

namespace Sys2Proof

/-! ## The command program -/

/-- `PROGRAM(k)` for an index `k` that is not listed. -/
def ProgramTail.word? : ProgramTail → Nat → Option Word
  | .repeating period, k => (period[k % period.length]?).join
  | .free which, k => Config.freeProgram which k

/-- `PROGRAM(k)`; `none` is "undefined". -/
def Program.word? (p : Program) (k : Nat) : Option Word :=
  match p.cells[k]? with
  | some c => c
  | none => p.tail.word? k

/-- The program with `w` at index `k` and every other index as before. It is not an operation of the CDU
(no operation writes `PROGRAM`, `20_memory.md` R60): it is the load from outside (log 9). -/
def Program.load (p : Program) (k : Nat) (w : Word) : Program :=
  if k < p.cells.length then
    { p with cells := p.cells.set k (some w) }
  else
    let gap := List.range' p.cells.length (k - p.cells.length)
    { p with cells := p.cells ++ gap.map p.tail.word? ++ [some w] }

end Sys2Proof

namespace Sys2Proof.Machine

/-! ## Register writers -/

/-- Writes `ECHO` (`10_state.md` R21). -/
def State.writeEcho (s : State) (l : Bool) : State := { s with echo := l }

/-- Writes `CSEL` (`10_state.md` R22). -/
def State.writeCsel (s : State) (c : BitVec 3) : State := { s with csel := c }

/-- Writes `TRIG` (`10_state.md` R23). -/
def State.writeTrig (s : State) (l : Bool) : State := { s with trig := l }

/-- Writes `POS`, all four lines in one step (`10_state.md` R24, D29). -/
def State.writePos (s : State) (v : BitVec 4) : State := { s with pos := v }

/-- Writes `SEG`, all eight lines in one step (`10_state.md` R25, D29). -/
def State.writeSeg (s : State) (v : Byte) : State := { s with seg := v }

/-- Writes `CNT` (`10_state.md` R27). -/
def State.writeCnt (s : State) (v : Half) : State := { s with cnt := v }

/-- Writes `PULSE_TICKS`, 16 bits at once (`10_state.md` R29, `20_memory.md` R65). -/
def State.writePulseTicks (s : State) (v : Half) : State := { s with pulseTicks := v }

/-- Writes `PAT` (`10_state.md` R32). -/
def State.writePat (s : State) (v : Byte) : State := { s with pat := v }

/-- Writes `SNAP` (`10_state.md` R33). -/
def State.writeSnap (s : State) (v : Half) : State := { s with snap := v }

/-- Writes `DISTANCE_CM` (`10_state.md` R34). -/
def State.writeDistance (s : State) (v : Half) : State := { s with distanceCm := v }

/-- Writes `CADENCE` (`10_state.md` R35). -/
def State.writeCadence (s : State) (v : Half) : State := { s with cadence := v }

/-- Writes `ITER` (`10_state.md` R36). -/
def State.writeIter (s : State) (v : Half) : State := { s with iter := v }

/-- Writes `DLY` (`10_state.md` R37). -/
def State.writeDly (s : State) (n : Nat) : State := { s with dly := n }

/-- `push_front(UQ, l)` (`00_scope.md` R7): the head has been taken off by the sequencer, the list takes
its place. -/
def State.pushFront (s : State) (l : List Instr) : State := { s with uq := l ++ s.uq }

/-- Starts an EV_RUN (`43_environment.md` R195). -/
def State.writeBudget (s : State) (b : Budget) : State := { s with budget := b }

/-! ## The timing primitive (`41_capture.md` R130 to R132), used by the commands and by the handler -/

/-- "reset": `CNT <- 0`. -/
def State.timerReset (s : State) : State := s.writeCnt 0

/-- "start": `RUN <- 1`. -/
def State.timerStart (s : State) : State := s.setRun true

/-- "stop": `RUN <- 0`. -/
def State.timerStop (s : State) : State := s.setRun false

/-! ## Clock and edge detector -/

/-- The counter after `n` ticks: 16 bits, wraps, counts only while `RUN = 1` (`41_capture.md` R134). -/
def countTicks (run : Bool) (cnt : Half) (n : Nat) : Half :=
  if run then cnt + BitVec.ofNat 16 n else cnt

/-- One CLK step (`43_environment.md` R191): the counter's and the delay's reaction to one tick. -/
def State.tick (s : State) : State :=
  (s.writeCnt (if s.run then s.cnt + 1 else s.cnt)).writeDly (s.dly - 1)

/-- `n` CLK steps one after the other, in closed form (`43_environment.md` R191); that it is `n` times
`State.tick` follows from `State.ticks_succ` of `Sys2Proof/Laws/Ops.lean`. -/
def State.ticks (s : State) (n : Nat) : State :=
  (s.writeCnt (countTicks s.run s.cnt n)).writeDly (s.dly - n)

/-- The edge detector (`41_capture.md` R135): any change of level requests the interrupt. -/
def State.senseEcho (s : State) (l : Bool) : State :=
  if l = s.echo then s else (s.writeEcho l).setIpend true

/-! ## The interrupt (`60_exceptions.md` R201 to R205, `41_capture.md` R136 to R141) -/

/-- The timer commands of the handler (`41_capture.md` R141). -/
inductive TimerCommand where
  | resetAndStart
  | stopAndRead
  | none
  deriving DecidableEq, Repr

/-- The capture state machine as a pure function (`41_capture.md` R141): from the state, the pin level and
the counter value, the new state, the latched width if any, and the timer command. -/
def captureFsm (e : EdgeState) (pin : Bool) (cnt : Half) : EdgeState × Option Half × TimerCommand :=
  match e, pin with
  | .idle, false => (.timing, .none, .resetAndStart)
  | .idle, true => (.idle, .none, .none)
  | .timing, true => (.idle, some cnt, .stopAndRead)
  | .timing, false => (.timing, .none, .none)

/-- What a timer command does to the counter. -/
def State.timerCommand (s : State) : TimerCommand → State
  | .resetAndStart => s.timerReset.timerStart
  | .stopAndRead => s.timerStop
  | .none => s

/-- Taking the interrupt: one whole run of the handler in one atomic step (R136). Entry saves nothing and
changes no register of the main context, and there is no return operation (R204, R205): the handler clears
`IPEND`, reads the pin as it is now, and does what the capture state machine says. -/
def State.takeInterrupt (s : State) : State :=
  let (e, width, cmd) := captureFsm s.edgeState s.echo s.cnt
  let s := (s.setIpend false).timerCommand cmd
  let s := match width with
    | some w => s.writePulseTicks w
    | .none => s
  s.setEdge e

/-! ## Reset -/

/-- The reset step (`43_environment.md` R193): every register and output takes the value of
`10_state.md` R44; the inputs keep their levels. The parameters, the program and the run stay (log 17). -/
def State.resetStep (s : State) : State :=
  { State.powerOn s.params s.program s.schedule with
    echo := s.echo
    csel := s.csel
    budget := s.budget }

end Sys2Proof.Machine
end

