-- ==== Sys2Proof/Machine/CriticalSection.lean ====
section
/-! DEFINITION. The critical-section read (`41_capture.md` R143 to R147). -/

namespace Sys2Proof.Machine

/-- IRQ_DIS (R143): `IE <- 0`. -/
def execIrqDis (s : State) : Host.Outcome State Fault Refusal := .next (s.setIe false)

/-- IRQ_EN (R144): `IE <- 1`. -/
def execIrqEn (s : State) : Host.Outcome State Fault Refusal := .next (s.setIe true)

/-- RDPTL (R145): `SNAP[7:0] <- PULSE_TICKS[7:0]`. -/
def execRdptl (s : State) : Host.Outcome State Fault Refusal :=
  .next (s.writeSnap (joinBytes (highByte s.snap) (lowByte s.pulseTicks)))

/-- RDPTH (R146): `SNAP[15:8] <- PULSE_TICKS[15:8]`. -/
def execRdpth (s : State) : Host.Outcome State Fault Refusal :=
  .next (s.writeSnap (joinBytes (highByte s.pulseTicks) (lowByte s.snap)))

/-- SNAPSHOT (R147), composite: low byte first, between IRQ_DIS and IRQ_EN. -/
def execSnapshot (s : State) : Host.Outcome State Fault Refusal :=
  .next (s.pushFront [.irqDis, .rdptl, .rdpth, .irqEn])

end Sys2Proof.Machine
end

