-- ==== Sys2Proof/Machine/Display.lean ====
section
/-! DEFINITION. The display multiplexer (`40_display.md` R100 to R108). -/

namespace Sys2Proof.Machine

/-- ENC d (R100): `PAT <- SEGTAB[d]`, refused for `d > 9` before anything changes. -/
def execEnc (d : BitVec 4) (s : State) : Host.Outcome State Fault Refusal :=
  match segtab? s.params d with
  | some pattern => .next (s.writePat pattern)
  | none => .refused .digitOutOfRange

/-- POS_BLANK (R101): `POS <- 0b1111`. -/
def execPosBlank (s : State) : Host.Outcome State Fault Refusal := .next (s.writePos 0b1111)

/-- SEG_OFF (R102): `SEG <- 0xFF`. -/
def execSegOff (s : State) : Host.Outcome State Fault Refusal := .next (s.writeSeg 0xFF)

/-- SEG_SET (R103): `SEG <- PAT`. -/
def execSegSet (s : State) : Host.Outcome State Fault Refusal := .next (s.writeSeg s.pat)

/-- POS_SEL p (R104): exactly the line of position `p` asserted, refused for `p` outside 1..4. -/
def execPosSel (p : BitVec 3) (s : State) : Host.Outcome State Fault Refusal :=
  match positionRefusal? p with
  | some r => .refused r
  | none => .next (s.writePos (positionPattern p))

/-- SHOW_DIGIT d, p (R107), composite: the six steps of the digit driver; refused at expansion, the digit
test first. -/
def execShowDigit (d : BitVec 4) (p : BitVec 3) (s : State) : Host.Outcome State Fault Refusal :=
  match digitRefusal? d with
  | some r => .refused r
  | none =>
    match positionRefusal? p with
    | some r => .refused r
    | none => .next (s.pushFront
        [.posBlank, .segOff, .enc d, .segSet, .posSel p, .delayMs s.params.settleMs])

/-- DISPNUM v (R108), composite: one SHOW_DIGIT per decimal digit of `min(v, 9999)`. -/
def execDispnum (v : Half) (s : State) : Host.Outcome State Fault Refusal :=
  .next (s.pushFront (digitStrobes v))

/-- DELAY_US n (R105): `DLY <- n * TICKS_PER_US`. -/
def execDelayUs (n : Nat) (s : State) : Host.Outcome State Fault Refusal :=
  .next (s.writeDly (microsecondTicks s.params n))

/-- DELAY_MS n (R106): `DLY <- n * 1000 * TICKS_PER_US`. -/
def execDelayMs (n : Nat) (s : State) : Host.Outcome State Fault Refusal :=
  .next (s.writeDly (millisecondTicks s.params n))

end Sys2Proof.Machine
end

