-- ==== Sys2Proof/Machine/MainLoop.lean ====
section
/-! DEFINITION. The host-level operations: trigger pulse, speed selector, conversion, main loop
(`42_host.md` R170 to R178). -/

namespace Sys2Proof.Machine

/-- TRIG_HI (R170): `TRIG <- 1`. -/
def execTrigHi (s : State) : Host.Outcome State Fault Refusal := .next (s.writeTrig true)

/-- TRIG_LO (R171): `TRIG <- 0`. -/
def execTrigLo (s : State) : Host.Outcome State Fault Refusal := .next (s.writeTrig false)

/-- TRIGGER (R172), composite: the pulse of `TRIG_US` microseconds. It does not look at `EDGE_STATE`. -/
def execTrigger (s : State) : Host.Outcome State Fault Refusal :=
  .next (s.pushFront [.trigHi, .delayUs Config.trigUs, .trigLo])

/-- SELCAD (R173): the preset of the first low select line; none low keeps `CADENCE`. -/
def execSelcad (s : State) : Host.Outcome State Fault Refusal :=
  .next (s.writeCadence
    (match selectedPreset s.csel with
      | some p => p.value
      | none => s.cadence))

/-- CONV (R174): `DISTANCE_CM <- SNAP div 58`. -/
def execConv (s : State) : Host.Outcome State Fault Refusal :=
  .next (s.writeDistance (s.snap / Config.cmDivisor))

/-- ITER_INC (R175): `ITER <- (ITER + 1) mod 65536`. -/
def execIterInc (s : State) : Host.Outcome State Fault Refusal := .next (s.writeIter (s.iter + 1))

/-- ITER_CLR (R176): `ITER <- 0`. -/
def execIterClr (s : State) : Host.Outcome State Fault Refusal := .next (s.writeIter 0)

/-- The condition of MI_CHECK (R177): `ITER >= CADENCE and CADENCE != 65535`. -/
def cadenceReached (iter cadence : Half) : Bool :=
  decide (cadence.toNat ≤ iter.toNat) && cadence != Preset.off.value

/-- MI_CHECK (R177), composite: the condition is evaluated at the step that expands it. -/
def execMiCheck (s : State) : Host.Outcome State Fault Refusal :=
  .next (s.pushFront
    (if cadenceReached s.iter s.cadence then [.snapshot, .conv, .trigger, .iterClr] else []))

/-- MAIN_ITER (R178), composite: DISPNUM takes the value `DISTANCE_CM` holds at the expansion. -/
def execMainIter (s : State) : Host.Outcome State Fault Refusal :=
  .next (s.pushFront [.dispnum s.distanceCm, .iterInc, .selcad, .miCheck])

end Sys2Proof.Machine
end

