-- ==== Sys2Proof/Machine/Stimulus.lean ====
section
/-! DEFINITION. The stimulus words (`43_environment.md` R190 to R195): ENV and CLK steps, and EV_RUN. -/

namespace Sys2Proof.Machine

/-- EV_ECHO l (R190): the edge detector's reaction to the level `l`. -/
def execEvEcho (l : Bool) (s : State) : Host.Outcome State Fault Refusal := .next (s.senseEcho l)

/-- EV_TICK n (R191): `n` CLK steps back to back (log 7). -/
def execEvTick (n : Half) (s : State) : Host.Outcome State Fault Refusal := .next (s.ticks n.toNat)

/-- EV_CSEL c (R192): `CSEL <- c`. -/
def execEvCsel (c : BitVec 3) (s : State) : Host.Outcome State Fault Refusal := .next (s.writeCsel c)

/-- The budget EV_RUN n gives the sequencer: at most `n` steps, 0 for no limit (R195). -/
def runBudget (n : Half) : Budget := if n = 0 then .unlimited else .upTo n.toNat

/-- EV_RUN n (R195): from the next step on the sequencer moves, `n` steps at the latest (log 8). -/
def execEvRun (n : Half) (s : State) : Host.Outcome State Fault Refusal :=
  .next (s.writeBudget (runBudget n))

/-- EV_RESET (R193): every register and output takes its reset value, the inputs keep their levels. -/
def execEvReset (s : State) : Host.Outcome State Fault Refusal := .next s.resetStep

end Sys2Proof.Machine
end

