-- ==== Sys2Proof/Machine/Timer.lean ====
section
/-! DEFINITION. The timing primitive as operations of the main context (`41_capture.md` R130 to R133). -/

namespace Sys2Proof.Machine

/-- TRESET (R130): `CNT <- 0`; `RUN` is not changed. -/
def execTreset (s : State) : Host.Outcome State Fault Refusal := .next s.timerReset

/-- TSTART (R131): `RUN <- 1`; `CNT` is not changed. -/
def execTstart (s : State) : Host.Outcome State Fault Refusal := .next s.timerStart

/-- TSTOP (R132): `RUN <- 0`; `CNT` keeps its value. -/
def execTstop (s : State) : Host.Outcome State Fault Refusal := .next s.timerStop

/-- TREAD (R133): `SNAP <- CNT`, all 16 bits in one step. -/
def execTread (s : State) : Host.Outcome State Fault Refusal := .next (s.writeSnap s.cnt)

end Sys2Proof.Machine
end

