-- ==== Sys2Proof/Machine/Dispatch.lean ====
section
/-! DEFINITION. One arm per constructor of `Instr`, each one call of that operation's meaning. A meaning is
applied to the state from which the sequencer has already taken the operation off `UQ` (`00_scope.md` R10),
or from which the schedule item has been taken (`43_environment.md` R195). -/

namespace Sys2Proof.Machine

def exec (i : Instr) (s : State) : Host.Outcome State Fault Refusal :=
  match i with
  | .treset => Sys2Proof.Machine.execTreset s
  | .tstart => Sys2Proof.Machine.execTstart s
  | .tstop => Sys2Proof.Machine.execTstop s
  | .tread => Sys2Proof.Machine.execTread s
  | .irqDis => Sys2Proof.Machine.execIrqDis s
  | .irqEn => Sys2Proof.Machine.execIrqEn s
  | .rdptl => Sys2Proof.Machine.execRdptl s
  | .rdpth => Sys2Proof.Machine.execRdpth s
  | .snapshot => Sys2Proof.Machine.execSnapshot s
  | .enc d => Sys2Proof.Machine.execEnc d s
  | .posBlank => Sys2Proof.Machine.execPosBlank s
  | .segOff => Sys2Proof.Machine.execSegOff s
  | .segSet => Sys2Proof.Machine.execSegSet s
  | .posSel p => Sys2Proof.Machine.execPosSel p s
  | .showDigit d p => Sys2Proof.Machine.execShowDigit d p s
  | .dispnum v => Sys2Proof.Machine.execDispnum v s
  | .delayUs n => Sys2Proof.Machine.execDelayUs n s
  | .delayMs n => Sys2Proof.Machine.execDelayMs n s
  | .trigHi => Sys2Proof.Machine.execTrigHi s
  | .trigLo => Sys2Proof.Machine.execTrigLo s
  | .trigger => Sys2Proof.Machine.execTrigger s
  | .selcad => Sys2Proof.Machine.execSelcad s
  | .conv => Sys2Proof.Machine.execConv s
  | .iterInc => Sys2Proof.Machine.execIterInc s
  | .iterClr => Sys2Proof.Machine.execIterClr s
  | .miCheck => Sys2Proof.Machine.execMiCheck s
  | .mainIter => Sys2Proof.Machine.execMainIter s
  | .evEcho l => Sys2Proof.Machine.execEvEcho l s
  | .evTick n => Sys2Proof.Machine.execEvTick n s
  | .evCsel c => Sys2Proof.Machine.execEvCsel c s
  | .evRun n => Sys2Proof.Machine.execEvRun n s
  | .evReset => Sys2Proof.Machine.execEvReset s

end Sys2Proof.Machine
end

