-- ==== Sys2Proof/Machine/Sequencer.lean ====
section
/-! DEFINITION. The agents' steps (`00_scope.md` R8 to R10), schedules (`43_environment.md` R195), whose
turn it is, and the load of one word from outside. -/

namespace Sys2Proof.Machine

/-! ## The sequencer (R10) -/

/-- A SEQ step is possible: `DLY = 0`, and `UQ` is not empty or `PROGRAM(PCIDX)` is defined (R9(3)). That
no handler step is enabled is asked where the turn is decided. -/
def State.seqReady (s : State) : Bool :=
  decide (s.dly = 0) && (!s.uq.isEmpty || (s.program.word? s.pcidx).isSome)

/-- Fetch of the word `w` (R10(a)): decode, refuse a reserved word (R85) and a stimulus word (R87), else
`UQ <- [op]; PCIDX <- PCIDX + 1`. -/
def fetchWord (w : Word) (s : State) : Host.Outcome State Fault Refusal :=
  match decode w with
  | .error _ => .refused .reservedEncoding
  | .ok i =>
    if i.isStimulus then .refused .stimulusInProgram
    else .next { s with uq := [i], pcidx := s.pcidx + 1 }

/-- One SEQ step (R10): fetch when `UQ` is empty, else take the head off and expand or perform it. A
stimulus operation is never part of the program, so at the head of `UQ` it is refused as well (log 13).
`seqReady` leaves no state in which there is nothing to fetch; there the step would be a wait. -/
def seqStep (s : State) : Host.Outcome State Fault Refusal :=
  match s.uq with
  | [] =>
    match s.program.word? s.pcidx with
    | some w => fetchWord w s
    | none => .next s
  | i :: rest =>
    if i.isStimulus then .refused .stimulusInProgram
    else exec i { s with uq := rest }

/-! ## The schedule (`43_environment.md` R195) -/

/-- Takes the schedule item `w`: a reserved word is refused (R85), a word that is no stimulus word is
refused (R87), a stimulus word takes its effect. -/
def scheduleStep (w : Word) (s : State) : Host.Outcome State Fault Refusal :=
  match decode w with
  | .error _ => .refused .reservedEncoding
  | .ok i => if i.isStimulus then exec i s else .refused .commandInSchedule

/-- An EV_RUN is in progress and allows another sequencer step. -/
def Budget.active : Budget → Bool
  | .idle => false
  | .upTo n => decide (0 < n)
  | .unlimited => true

/-- What is left of an EV_RUN after one sequencer step. -/
def Budget.spend : Budget → Budget
  | .idle => .idle
  | .upTo n => if n ≤ 1 then .idle else .upTo (n - 1)
  | .unlimited => .unlimited

/-! ## Whose turn it is -/

/-- Who takes the next step. -/
inductive Turn where
  /-- The reset input is asserted: the ENV step EV_RESET, enabled in every state (R193). -/
  | reset
  /-- A handler step is enabled, so nothing else is (R9(2)). -/
  | irq
  /-- The sequencer. -/
  | seq
  /-- The next item of the schedule. -/
  | item (w : Word) (rest : List Word)
  /-- The core clock. -/
  | clk
  deriving DecidableEq, Repr

/-- Whose turn it is: the reset line, then the handler, then an EV_RUN in progress while the sequencer is
ready, then the next schedule item; with the schedule empty the unit runs freely, the sequencer when it is
ready and the clock otherwise (DESIGN CHOICE, log 4, log 5). -/
def State.turn (s : State) : Turn :=
  if s.rst then .reset
  else if s.irqEnabled then .irq
  else if s.budget.active && s.seqReady then .seq
  else
    match s.schedule with
    | w :: rest => .item w rest
    | [] => if s.seqReady then .seq else .clk

/-- The step of the agent whose turn it is. Taking a schedule item, or a tick of the free run, ends an
EV_RUN in progress: none is enabled to go on. -/
def takeTurn (s : State) : Host.Outcome State Fault Refusal :=
  match s.turn with
  | .reset => exec .evReset { s with rst := false }
  | .irq => .next s.takeInterrupt
  | .seq => seqStep { s with budget := s.budget.spend }
  | .item w rest => scheduleStep w { s with schedule := rest, budget := .idle }
  | .clk => .next { s with budget := .idle }.tick

/-! ## Loading one word from outside (log 9) -/

/-- `s` with the operation word `w` where the very next step takes it: a stimulus word at the head of the
schedule, any other word in `PROGRAM` at `PCIDX`, already fetched into `UQ` when it decodes (a fetch is a
step of its own, R10). Reset line, pending request, delay and EV_RUN are set so that this agent's turn is
next. -/
def State.placeWord (s : State) (w : Word) : State :=
  match decode w with
  | .ok i =>
    if i.isStimulus then
      { s with rst := false, ipend := false, budget := .idle, schedule := w :: s.schedule }
    else
      { s with rst := false, ipend := false, dly := 0, budget := .upTo 1
               program := s.program.load s.pcidx w, uq := [i], pcidx := s.pcidx + 1 }
  | .error _ =>
    { s with rst := false, ipend := false, dly := 0, budget := .upTo 1
             program := s.program.load s.pcidx w, uq := [] }

end Sys2Proof.Machine
end

