-- ==== Sys2Proof/Machine/Step.lean ====
section
/-! DEFINITION. One step of the whole unit, and the state in which the next step runs a given word. -/

namespace Sys2Proof.Machine

/-- One step of the CDU: an atomic step of the agent whose turn it is (`00_scope.md` R8, R9). -/
def step (s : State) : Host.Outcome State Fault Refusal := takeTurn s

/-- `s` with the word of `nbits` bits `w` stored where `step` takes its next operation (log 9). -/
def State.withFetchWord (s : State) (nbits w : Nat) : State := s.placeWord (tableWord nbits w)

end Sys2Proof.Machine
end

