-- ==== Sys2Proof/Safety.lean ====
section
/-! DEFINITION. What counts as a safe run, and the terms in which claims about the machine are stated:
which agent moves, what it takes, the strobes of a run, the invariants. -/

namespace Sys2Proof.Machine

/-- `k` steps from `s` end in `t`, none of them refused: "a claim proved of the model must take 'no step
refused' as a premise" (`00_scope.md` R11). -/
def SafeRun (k : Nat) (s t : State) : Prop := Host.Core.run core k s = .next t

/-! ## Who moves, and with what -/

/-- The step at `s` resets the unit: the reset line, or EV_RESET as the next schedule item (R193). -/
def State.takesReset (s : State) : Bool :=
  match s.turn with
  | .reset => true
  | .item w _ =>
    match decode w with
    | .ok i => i == .evReset
    | .error _ => false
  | .irq | .seq | .clk => false

/-- The step at `s` expands or performs the operation `i` from the head of `UQ` (R10(b), (c)). -/
def State.performs (s : State) (i : Instr) : Prop := s.turn = .seq ∧ s.uq.head? = some i

/-- The number of core-clock ticks the step at `s` takes (R191): SEQ and handler steps take none (R246). -/
def State.ticksTaken (s : State) : Nat :=
  match s.turn with
  | .clk => 1
  | .item w _ =>
    match decode w with
    | .ok (.evTick n) => n.toNat
    | _ => 0
  | .reset | .irq | .seq => 0

/-- The number of ticks the first `k` steps from `s` take. -/
def ticksOver : Nat → State → Nat
  | 0, _ => 0
  | k + 1, s =>
    s.ticksTaken +
      match step s with
      | .next t => ticksOver k t
      | .fault _ | .refused _ => 0

/-- The step at `s` does not end a low pulse and does not meddle with its measurement: it is no reset, no
rise of the echo line, no IRQ_DIS and no timer command of the main context (the premises of
`41_capture.md` R142, `70_reset_and_hazards.md` R241). -/
def State.keepsTiming (s : State) : Prop :=
  s.takesReset = false ∧
  (∀ w rest, s.turn = .item w rest → decode w ≠ .ok (.evEcho true)) ∧
  ∀ i, s.performs i → i ≠ .irqDis ∧ i.writesTimer = false

/-- The agents of `00_scope.md` R8. -/
inductive Agent where
  | env
  | clk
  | irq
  | seq
  deriving DecidableEq, Repr

/-- Which steps are enabled in a state, exactly as `00_scope.md` R9 says. -/
def State.enabled (s : State) : Agent → Prop
  | .irq => s.ipend = true ∧ s.ie = true
  | .env | .clk => ¬(s.ipend = true ∧ s.ie = true)
  | .seq => ¬(s.ipend = true ∧ s.ie = true) ∧ s.dly = 0 ∧
      (s.uq ≠ [] ∨ s.program.word? s.pcidx ≠ none)

/-- A run is over (`00_scope.md` R13): no IRQ step and no SEQ step is enabled and `DLY = 0`. -/
def State.over (s : State) : Prop := ¬ s.enabled .irq ∧ ¬ s.enabled .seq ∧ s.dly = 0

/-- Only the unit itself moves: no reset, no interrupt pending, no schedule. The sequencer runs whenever it
is ready and the clock ticks otherwise. -/
def State.quiet (s : State) : Prop :=
  s.rst = false ∧ s.ipend = false ∧ s.schedule = [] ∧ s.budget = .idle

/-! ## Strobes (`40_display.md` R109) -/

/-- The digit whose pattern the segment lines show. -/
def State.shownDigit? (s : State) : Option Nat :=
  (List.range 10).find? fun d => s.params.segtab[d]? == some s.seg

/-- The strobe the step at `s` is: "a `POS_SEL p` step performed in a state where `SEG = SEGTAB[d]`", as
the pair `(d, p)`. -/
def State.strobe? (s : State) : Option (Nat × Nat) :=
  match s.turn, s.uq with
  | .seq, .posSel p :: _ =>
    match positionRefusal? p with
    | some _ => none
    | none => s.shownDigit?.map fun d => (d, p.toNat)
  | _, _ => none

/-- The strobe sequence of the first `k` steps from `s`. -/
def strobes : Nat → State → List (Nat × Nat)
  | 0, _ => []
  | k + 1, s =>
    s.strobe?.toList ++
      match step s with
      | .next t => strobes k t
      | .fault _ | .refused _ => []

/-- The decimal digits of `n` with their positions, least significant first, from position `pos` on, for
`count` positions (`40_display.md` R110). -/
def digitPairs (n : Nat) : Nat → Nat → List (Nat × Nat)
  | _, 0 => []
  | pos, count + 1 => (n / 10 ^ (pos - 1) % 10, pos) :: digitPairs n (pos + 1) count

/-- The number of decimal digits R110 gives `n` (1 for 0, whose one strobe is digit 0 at position 1). -/
def decimalLength (n : Nat) : Nat :=
  if n < 10 then 1 else if n < 100 then 2 else if n < 1000 then 3 else 4

/-! ## Expansions under way, whatever other agents do in between -/

/-- The low bytes agree. -/
def sameLowByte (a b : Half) : Prop := ∀ k < 8, a.getLsbD k = b.getLsbD k

/-- The expansion of `SHOW_DIGIT d, p` (`40_display.md` R107) with its first `n` steps performed and `rest`
queued behind it. -/
def State.driverPhase (s : State) (d : BitVec 4) (p : BitVec 3) (rest : List Instr) (n : Nat) : Prop :=
  s.uq = [.posBlank, .segOff, .enc d, .segSet, .posSel p, .delayMs s.params.settleMs].drop n ++ rest ∧
  (1 ≤ n → n ≤ 4 → s.pos = 0b1111) ∧
  (2 ≤ n → n ≤ 3 → s.seg = 0xFF) ∧
  (3 ≤ n → segtab? s.params d = some s.pat) ∧
  (4 ≤ n → s.seg = s.pat) ∧
  (5 ≤ n → s.pos = positionPattern p)

/-- The expansion of SNAPSHOT (`41_capture.md` R147) with its first `n` steps performed and `rest` queued
behind it. -/
def State.snapshotPhase (s : State) (rest : List Instr) (n : Nat) : Prop :=
  s.uq = [.irqDis, .rdptl, .rdpth, .irqEn].drop n ++ rest ∧
  (1 ≤ n → n ≤ 3 → s.ie = false) ∧
  (2 ≤ n → sameLowByte s.snap s.pulseTicks) ∧
  (3 ≤ n → s.snap = s.pulseTicks) ∧
  (4 ≤ n → s.ie = true)

/-! ## Invariants -/

/-- At most one position line is asserted (`10_state.md` R24: active low, mutually exclusive). -/
abbrev exclusive (pos : BitVec 4) : Prop :=
  ∀ i j : Fin 4, pos.getLsbD i = false → pos.getLsbD j = false → i = j

/-- The pattern is the all-off one or an entry of the segment table. -/
abbrev isPattern (p : Params) (v : Byte) : Prop := v = 0xFF ∨ ∃ d : Fin 10, p.segtab[d] = v

/-- `CADENCE` is one of 10, 1000, 65535 (`10_state.md` R35). -/
abbrev isCadence (v : Half) : Prop := v = 10 ∨ v = 1000 ∨ v = 65535

/-- What holds of every state a run reaches: the position lines are mutually exclusive (R24), the segment
lines and `PAT` show a table entry or nothing (R25, R32), `CADENCE` is a preset (R35), `DISTANCE_CM` is at
most 1129 (R34), and no stimulus word is queued (R10). -/
abbrev State.wf (s : State) : Prop :=
  exclusive s.pos ∧ isPattern s.params s.seg ∧ isPattern s.params s.pat ∧ isCadence s.cadence ∧
    s.distanceCm.toNat ≤ 1129 ∧ ∀ i ∈ s.uq, i.isStimulus = false

/-- No TRESET, TSTART or TSTOP is queued or stands in the program: the duty of
`70_reset_and_hazards.md` R241. -/
def State.timerFree (s : State) : Prop :=
  (∀ i ∈ s.uq, i.writesTimer = false) ∧
    ∀ k w i, s.program.word? k = some w → decode w = .ok i → i.writesTimer = false

/-- `RUN = 1` exactly when `EDGE_STATE = Timing`, as long as the main context leaves the timer alone
(`41_capture.md` R149(c)). -/
def State.captureInv (s : State) : Prop :=
  s.timerFree ∧ (s.run = true ↔ s.edgeState = .timing)

end Sys2Proof.Machine
end

