-- ==== Sys2Proof/Certificates/Slice0/Obligations.lean ====
section
/-! DEFINITION. The statements about the model. Each docstring says which rule it formalises and what in
it is the model's own choice. A next state is written as the old state with the fields that change, so each
such equation is the result, the completion and the frame of the operation at once: every other register,
flag, output, parameter and the run are as before (the CDU has no memory, R60). -/

open Sys2Proof Sys2Proof.Machine

/-! ## Encoding -/

/-- R84, R83, R81 in the other direction of `Obligations.WordsDecodeByTheOpcodeTable`: the word of every
operation whose operand fits its field decodes to that operation. -/
def Obligations.DecodeEncodeAgree : Prop :=
  ∀ i : Instr, i.encodable = true → decode (encode i) = .ok i

/-- A word that decodes is the word of the operation it decodes to: no bit of a valid word is dropped. -/
def Obligations.DecodedWordIsItsEncoding : Prop :=
  ∀ (w : Word) (i : Instr), decode w = .ok i → i.encodable = true ∧ encode i = w

/-- The rows of `opcode_table.json`: match, mask, and the operation made of the row's fields. -/
def Sys2Proof.Spec.opcodeRows : List (Word × Word × (Word → Instr)) :=
  [(0x01000000, 0xFFFFFFFF, fun _ => .treset), (0x02000000, 0xFFFFFFFF, fun _ => .tstart),
   (0x03000000, 0xFFFFFFFF, fun _ => .tstop), (0x04000000, 0xFFFFFFFF, fun _ => .tread),
   (0x10000000, 0xFFFFFFFF, fun _ => .irqDis), (0x11000000, 0xFFFFFFFF, fun _ => .irqEn),
   (0x12000000, 0xFFFFFFFF, fun _ => .rdptl), (0x13000000, 0xFFFFFFFF, fun _ => .rdpth),
   (0x14000000, 0xFFFFFFFF, fun _ => .snapshot)] ++
  [(0x20000000, 0xFFFFFFF0, fun w => .enc (BitVec.ofNat 4 w.toNat)),
   (0x21000000, 0xFFFFFFFF, fun _ => .posBlank), (0x22000000, 0xFFFFFFFF, fun _ => .segOff),
   (0x23000000, 0xFFFFFFFF, fun _ => .segSet),
   (0x24000000, 0xFFFFFF8F, fun w => .posSel (BitVec.ofNat 3 (w.toNat / 16))),
   (0x28000000, 0xFFFFFF80, fun w => .showDigit (BitVec.ofNat 4 w.toNat) (BitVec.ofNat 3 (w.toNat / 16))),
   (0x29000000, 0xFFFF0000, fun w => .dispnum (BitVec.ofNat 16 w.toNat)),
   (0x30000000, 0xFFFF0000, fun w => .delayUs (w.toNat % 65536)),
   (0x31000000, 0xFFFF0000, fun w => .delayMs (w.toNat % 65536))] ++
  [(0x40000000, 0xFFFFFFFF, fun _ => .trigHi), (0x41000000, 0xFFFFFFFF, fun _ => .trigLo),
   (0x42000000, 0xFFFFFFFF, fun _ => .trigger), (0x43000000, 0xFFFFFFFF, fun _ => .selcad),
   (0x44000000, 0xFFFFFFFF, fun _ => .conv), (0x45000000, 0xFFFFFFFF, fun _ => .iterInc),
   (0x46000000, 0xFFFFFFFF, fun _ => .iterClr), (0x47000000, 0xFFFFFFFF, fun _ => .miCheck),
   (0x4F000000, 0xFFFFFFFF, fun _ => .mainIter)] ++
  [(0xE0000000, 0xFFFFFFFE, fun w => .evEcho (w.toNat % 2 = 1)),
   (0xE1000000, 0xFFFF0000, fun w => .evTick (BitVec.ofNat 16 w.toNat)),
   (0xE2000000, 0xFFFFFFF8, fun w => .evCsel (BitVec.ofNat 3 w.toNat)),
   (0xE3000000, 0xFFFF0000, fun w => .evRun (BitVec.ofNat 16 w.toNat)),
   (0xEF000000, 0xFFFFFFFF, fun _ => .evReset)]

/-- R84 with the table of R83, R81 and the fields of R82, as `opcode_table.json` prints it: a word that
matches a row is that row's operation, a word that matches none is `Invalid`. -/
def Obligations.WordsDecodeByTheOpcodeTable : Prop :=
  ∀ w : Word,
    (∀ r ∈ Spec.opcodeRows, w &&& r.2.1 = r.1 → decode w = .ok (r.2.2 w)) ∧
    ((∀ r ∈ Spec.opcodeRows, w &&& r.2.1 ≠ r.1) → ∃ e, decode w = .error e)

/-- R91, the worked encodings, and V-E5, V-E8, V-E14, V-E19 of `95_test_vectors.md`. -/
def Obligations.WorkedEncodingsDecode : Prop :=
  decode 0x28000037 = .ok (.showDigit 7 3) ∧ decode 0x2900000A = .ok (.dispnum 10) ∧
  decode 0x2900270F = .ok (.dispnum 9999) ∧ decode 0x20000009 = .ok (.enc 9) ∧
  decode 0x24000040 = .ok (.posSel 4) ∧ decode 0x3000000A = .ok (.delayUs 10) ∧
  decode 0x14000000 = .ok .snapshot ∧ decode 0x4F000000 = .ok .mainIter ∧
  decode 0xE0000000 = .ok (.evEcho false) ∧ decode 0xE0000001 = .ok (.evEcho true) ∧
  decode 0xE1000244 = .ok (.evTick 580) ∧ decode 0xE2000006 = .ok (.evCsel 0b110) ∧
  decode 0x2800005A = .ok (.showDigit 10 5) ∧
  (∀ w ∈ [(0x28000080 : Word), 0x20000010, 0x24000041, 0x29010000, 0xE0000002], ∃ e, decode w = .error e)

/-- The opcodes R85 lists as reserved. -/
def Sys2Proof.Spec.reservedOpcode (n : Nat) : Prop :=
  n = 0x00 ∨ (0x05 ≤ n ∧ n ≤ 0x0F) ∨ (0x15 ≤ n ∧ n ≤ 0x1F) ∨ (0x25 ≤ n ∧ n ≤ 0x27) ∨
  (0x2A ≤ n ∧ n ≤ 0x2F) ∨ (0x32 ≤ n ∧ n ≤ 0x3F) ∨ (0x48 ≤ n ∧ n ≤ 0x4E) ∨ (0x50 ≤ n ∧ n ≤ 0xDF) ∨
  (0xE4 ≤ n ∧ n ≤ 0xEE) ∨ (0xF0 ≤ n ∧ n ≤ 0xFF)

/-- R85: the opcodes listed are reserved and no others are; a word with a non-zero must-be-zero bit is
reserved too (that part is `Obligations.WordsDecodeByTheOpcodeTable`); fetching a reserved word is refused
with `ReservedEncoding`. That a reserved word in a schedule is refused with the same reason is the model's
inference (log 18). -/
def Obligations.ReservedOpcodesAreRefused : Prop :=
  (∀ w : Word, Spec.reservedOpcode (w.toNat / 2 ^ 24) ↔ decode w = .error .reservedOpcode) ∧
  (∀ (s : State) (w : Word) (e : DecodeError), s.turn = .seq → s.uq = [] →
    s.program.word? s.pcidx = some w → decode w = .error e → step s = .refused .reservedEncoding) ∧
  (∀ (s : State) (w : Word) (rest : List Word) (e : DecodeError), s.turn = .item w rest →
    decode w = .error e → step s = .refused .reservedEncoding)

/-- R87: a stimulus word fetched from `PROGRAM` is refused with `StimulusInProgram`, a non-stimulus word in
a schedule with `CommandInSchedule`. -/
def Obligations.WordsOutOfPlaceAreRefused : Prop :=
  (∀ (s : State) (w : Word) (i : Instr), s.turn = .seq → s.uq = [] → s.program.word? s.pcidx = some w →
    decode w = .ok i → i.isStimulus = true → step s = .refused .stimulusInProgram) ∧
  (∀ (s : State) (w : Word) (rest : List Word) (i : Instr), s.turn = .item w rest → decode w = .ok i →
    i.isStimulus = false → step s = .refused .commandInSchedule)

/-! ## Steps -/

/-- R10: a SEQ step fetches when `UQ` is empty, else takes the head off and expands or performs it, and a
composite's expansion changes nothing but `UQ`. The field `budget` is the model's own count of the EV_RUN in
progress (log 8). -/
def Obligations.SequencerFetchesExpandsOrPerforms : Prop :=
  ∀ s : State, s.turn = .seq →
    (s.uq = [] → ∀ w i, s.program.word? s.pcidx = some w → decode w = .ok i → i.isStimulus = false →
      step s = .next { s with uq := [i], pcidx := s.pcidx + 1, budget := s.budget.spend }) ∧
    (s.uq = [] → ∀ w i, s.program.word? s.pcidx = some w → decode w = .ok i → i.isStimulus = true →
      step s = .refused .stimulusInProgram) ∧
    (s.uq = [] → ∀ w e, s.program.word? s.pcidx = some w → decode w = .error e →
      step s = .refused .reservedEncoding) ∧
    (∀ i rest, s.uq = i :: rest → i.isStimulus = false →
      step s = exec i { s with uq := rest, budget := s.budget.spend } ∧
      (i.kind = .comp → ∀ t, step s = .next t →
        ∃ l, t = { s with uq := l ++ rest, budget := s.budget.spend }))

/-- R195: a schedule item that is a stimulus word takes its effect. That taking it ends an EV_RUN in
progress is the model's form of R195 (log 8). -/
def Obligations.ScheduleItemsTakeTheirEffect : Prop :=
  ∀ (s : State) (w : Word) (rest : List Word) (i : Instr), s.turn = .item w rest → decode w = .ok i →
    i.isStimulus = true → step s = exec i { s with schedule := rest, budget := .idle }

/-- The load of one word (log 9) makes it what the next step runs, for every state and word. -/
def Obligations.PlacedWordRunsNext : Prop :=
  ∀ (s : State) (w : Word) (i : Instr), decode w = .ok i →
    ∃ u : State, step (s.withFetchWord 32 w.toNat) = exec i u ∧
      (i.isStimulus = true → u = { s with rst := false, ipend := false, budget := .idle }) ∧
      (i.isStimulus = false → u = { s with
        rst := false, ipend := false, dly := 0, budget := .idle, uq := [], pcidx := s.pcidx + 1,
        program := s.program.load s.pcidx w })

/-- R9: the agent that takes a step is one the rule enables, reset apart, which R193 enables in every
state. -/
def Obligations.StepsTakenAreEnabled : Prop :=
  ∀ s : State,
    match s.turn with
    | .reset => s.takesReset = true
    | .irq => s.enabled .irq
    | .seq => s.enabled .seq
    | .clk => s.enabled .clk
    | .item _ _ => s.enabled .env ∧ s.enabled .clk

/-- R9, R194: "any enabled step may be the next one". For every state with no handler step enabled and no
reset asserted, and for every ENV, CLK and SEQ step, some schedule (or EV_RUN in progress) makes that step
the next one. -/
def Obligations.EveryEnabledStepCanBeNext : Prop :=
  ∀ s : State, s.rst = false → ¬ s.enabled .irq →
    (∀ l, step { s with budget := .idle, schedule := [encode (.evEcho l)] } =
      .next { s with budget := .idle, schedule := [], echo := l, ipend := s.ipend || (l != s.echo) }) ∧
    (∀ c, step { s with budget := .idle, schedule := [encode (.evCsel c)] } =
      .next { s with budget := .idle, schedule := [], csel := c }) ∧
    (step { s with budget := .idle, schedule := [encode (.evTick 1)] } =
      .next { s with
        budget := .idle, schedule := [], cnt := if s.run then s.cnt + 1 else s.cnt, dly := s.dly - 1 }) ∧
    (step { s with budget := .idle, schedule := [encode .evReset] } =
      .next { State.powerOn s.params s.program [] with echo := s.echo, csel := s.csel }) ∧
    (s.enabled .seq → ({ s with budget := .upTo 1 } : State).turn = .seq)

/-- R193, R9: EV_RESET is enabled in every state, also while a handler step is enabled and while
`DLY > 0`: the reset line wins. That the line is a field of the model is log 6. -/
def Obligations.ResetLineWinsInEveryState : Prop :=
  ∀ s : State, s.rst = true →
    step s = .next { State.powerOn s.params s.program s.schedule with
      echo := s.echo, csel := s.csel, budget := s.budget }

/-! ## The handler and the capture -/

/-- R136 to R140: with `IPEND = 1` and `IE = 1` the handler step is the next step (R9(2)), it clears `IPEND`
and takes the transition of the state and of the pin level of that moment; nothing else changes. The reset
line is deasserted (log 6). -/
def Obligations.HandlerTakesItsTransition : Prop :=
  ∀ s : State, s.ipend = true → s.ie = true → s.rst = false →
    (s.edgeState = .idle → s.echo = false →
      step s = .next { s with ipend := false, cnt := 0, run := true, edgeState := .timing }) ∧
    (s.edgeState = .idle → s.echo = true → step s = .next { s with ipend := false }) ∧
    (s.edgeState = .timing → s.echo = true →
      step s = .next { s with ipend := false, run := false, pulseTicks := s.cnt, edgeState := .idle }) ∧
    (s.edgeState = .timing → s.echo = false → step s = .next { s with ipend := false })

/-- R204: taking the interrupt changes no register of the main context and no output; it touches only
`IPEND`, `EDGE_STATE`, `CNT`, `RUN` and `PULSE_TICKS`. -/
def Obligations.InterruptLeavesMainContextAlone : Prop :=
  ∀ s t : State, s.turn = .irq → step s = .next t →
    t.uq = s.uq ∧ t.pcidx = s.pcidx ∧ t.dly = s.dly ∧ t.snap = s.snap ∧ t.pat = s.pat ∧
    t.distanceCm = s.distanceCm ∧ t.cadence = s.cadence ∧ t.iter = s.iter ∧ t.ie = s.ie ∧
    t.trig = s.trig ∧ t.pos = s.pos ∧ t.seg = s.seg ∧ t.echo = s.echo ∧ t.csel = s.csel ∧
    t.params = s.params ∧ t.program = s.program ∧ t.schedule = s.schedule ∧ t.budget = s.budget

/-- R141, the pure-function form of the handler. -/
def Obligations.CaptureFunctionTable : Prop :=
  ∀ c : Half,
    captureFsm .idle false c = (.timing, none, .resetAndStart) ∧
    captureFsm .idle true c = (.idle, none, .none) ∧
    captureFsm .timing true c = (.idle, some c, .stopAndRead) ∧
    captureFsm .timing false c = (.timing, none, .none)

/-- R135, R190: EV_ECHO (`0xE0000000 | l`); a change of level is latched and requests the interrupt, the
same level changes nothing. -/
def Obligations.EchoChangeRequestsTheInterrupt : Prop :=
  (∀ l : Bool, decode (0xE0000000 ||| (BitVec.ofBool l).setWidth 32) = .ok (.evEcho l)) ∧
  ∀ (s : State) (l : Bool),
    (l ≠ s.echo → exec (.evEcho l) s = .next { s with echo := l, ipend := true }) ∧
    (l = s.echo → exec (.evEcho l) s = .next s)

/-- One tick: R134 and the delay's reaction of R191. -/
def Sys2Proof.Spec.oneTick (s : State) : State :=
  { s with
    cnt := if s.run then BitVec.ofNat 16 ((s.cnt.toNat + 1) % 65536) else s.cnt
    dly := if s.dly > 0 then s.dly - 1 else s.dly }

/-- R191, R134: EV_TICK n (`0xE1000000 | n`) is `n` ticks one after the other, 0 being no step. -/
def Obligations.TickWordIsThatManyTicks : Prop :=
  (∀ n : Half, decode (0xE1000000 ||| n.setWidth 32) = .ok (.evTick n)) ∧
  ∀ (s : State) (n : Half), exec (.evTick n) s = .next (Spec.oneTick^[n.toNat] s)

/-- R142: a falling edge in Idle with interrupts enabled, then `k` steps of any agents that neither reset,
raise the line, disable interrupts nor issue a timer command, then a rising edge: `PULSE_TICKS` is the
number of ticks in between modulo 65536, and the unit is back in Idle with the counter stopped. The spec
marks R142's exact form as derived, and that the handler takes no ticks is the spec's idealisation (log 11). -/
def Obligations.LowPulseIsMeasured : Prop :=
  ∀ (s u : State) (k : Nat) (w w' : Word) (rest rest' : List Word),
    s.ie = true → s.ipend = false → s.edgeState = .idle → s.echo = true →
    s.turn = .item w rest → decode w = .ok (.evEcho false) →
    (∀ j, j < k → ∀ v, SafeRun (2 + j) s v → v.keepsTiming) →
    SafeRun (2 + k) s u → u.turn = .item w' rest' → decode w' = .ok (.evEcho true) →
    ∃ t, SafeRun (2 + k + 2) s t ∧
      (∀ v, SafeRun 2 s v →
        t.pulseTicks = BitVec.ofNat 16 (ticksOver k v) ∧ t.cnt = BitVec.ofNat 16 (ticksOver k v)) ∧
      t.edgeState = .idle ∧ t.run = false ∧ t.echo = true ∧ t.ipend = false ∧ t.ie = true

/-- R134, R27: outside the handler, a reset and TRESET, the counter moves by the ticks the step takes while
`RUN = 1` and holds while `RUN = 0`; no other step moves it. -/
def Obligations.CounterMovesOnlyByTicks : Prop :=
  ∀ s t : State, step s = .next t → s.turn ≠ .irq → s.takesReset = false → ¬ s.performs .treset →
    t.cnt = if s.run then s.cnt + BitVec.ofNat 16 s.ticksTaken else s.cnt

/-- R149(a), (b), R26: `EDGE_STATE` changes only in the handler (a reset apart), from Idle to Timing only
with the pin low, from Timing to Idle only with the pin high. -/
def Obligations.EdgeStateChangesOnlyInHandler : Prop :=
  ∀ s t : State, step s = .next t → s.takesReset = false → t.edgeState ≠ s.edgeState →
    s.turn = .irq ∧ ((s.edgeState = .idle ∧ s.echo = false ∧ t.edgeState = .timing) ∨
      (s.edgeState = .timing ∧ s.echo = true ∧ t.edgeState = .idle))

/-- R149(d), R29: `PULSE_TICKS` changes only in the transition of R139 (a reset apart), to the count. -/
def Obligations.PulseTicksChangesOnlyAtCapture : Prop :=
  ∀ s t : State, step s = .next t → s.takesReset = false → t.pulseTicks ≠ s.pulseTicks →
    s.turn = .irq ∧ s.edgeState = .timing ∧ s.echo = true ∧ t.pulseTicks = s.cnt

/-- R149(c), marked derived by the spec: as long as no timer command stands in the program or the queue,
`RUN = 1` exactly when `EDGE_STATE = Timing`, and every step keeps it. -/
def Obligations.RunBitMatchesTiming : Prop :=
  ∀ s t : State, s.captureInv → step s = .next t → t.captureInv

/-- The start of `Obligations.RunBitMatchesTiming`: the state a run starts in, whatever the parameters, if
the program holds no timer command. -/
def Obligations.RunBitMatchesTimingAtReset : Prop :=
  (∀ (p : Params) (prog : Program) (sched : List Word),
    (∀ k w i, prog.word? k = some w → decode w = .ok i → i.writesTimer = false) →
    (State.powerOn p prog sched).captureInv) ∧
  State.reset.captureInv

/-- R31, R202: `IPEND` is set only by a change of level of `ECHO`, and cleared only by the handler or a
reset. -/
def Obligations.PendingFlagHasOneSource : Prop :=
  ∀ s t : State, step s = .next t →
    (s.ipend = false → t.ipend = true →
      t.echo ≠ s.echo ∧ ∃ w rest, s.turn = .item w rest ∧ decode w = .ok (.evEcho t.echo)) ∧
    (s.ipend = true → t.ipend = false → s.turn = .irq ∨ s.takesReset = true)

/-- R237, marked derived by the spec: two changes of level while `IE = 0` merge into one pending request,
and the handler that serves it once interrupts are enabled is a no-op that leaves the pulse out. -/
def Obligations.EdgesMergeWhileDisabled : Prop :=
  ∀ (s : State) (n : Half), s.rst = false → s.ie = false → s.budget = .idle →
    s.echo = decide (s.edgeState = .idle) →
    s.schedule = [encode (.evEcho (!s.echo)), encode (.evTick n), encode (.evEcho s.echo)] →
    ∃ t, SafeRun 3 s t ∧ t.ipend = true ∧ t.echo = s.echo ∧ t.edgeState = s.edgeState ∧
      t.pulseTicks = s.pulseTicks ∧ t.run = s.run ∧
      step { t with ie := true } = .next { t with ie := true, ipend := false }

/-! ## The timing primitive and the critical section -/

/-- R130 to R133. -/
def Obligations.TimerPrimitive : Prop :=
  (decode 0x01000000 = .ok .treset ∧ ∀ s : State, exec .treset s = .next { s with cnt := 0 }) ∧
  (decode 0x02000000 = .ok .tstart ∧ ∀ s : State, exec .tstart s = .next { s with run := true }) ∧
  (decode 0x03000000 = .ok .tstop ∧ ∀ s : State, exec .tstop s = .next { s with run := false }) ∧
  (decode 0x04000000 = .ok .tread ∧ ∀ s : State, exec .tread s = .next { s with snap := s.cnt })

/-- R143, R144: the entry and the exit of the critical section, unconditionally. While `IE = 0` no handler
step is enabled, and with a pending request the handler is the very next step after IRQ_EN. -/
def Obligations.InterruptEnableCommands : Prop :=
  (decode 0x10000000 = .ok .irqDis ∧ ∀ s : State, exec .irqDis s = .next { s with ie := false }) ∧
  (decode 0x11000000 = .ok .irqEn ∧ ∀ s : State, exec .irqEn s = .next { s with ie := true }) ∧
  (∀ s : State, s.ie = false → s.turn ≠ .irq) ∧
  (∀ s t : State, exec .irqEn s = .next t → s.ipend = true → s.rst = false → t.turn = .irq)

/-- R145, R146: one byte of `PULSE_TICKS` into the same byte of `SNAP`, said bit by bit; the other byte and
everything else is as before. -/
def Obligations.ByteReadsOfPulseTicks : Prop :=
  (decode 0x12000000 = .ok .rdptl ∧ ∀ s : State, ∃ v : Half, exec .rdptl s = .next { s with snap := v } ∧
    ∀ k < 16, v.getLsbD k = if k < 8 then s.pulseTicks.getLsbD k else s.snap.getLsbD k) ∧
  (decode 0x13000000 = .ok .rdpth ∧ ∀ s : State, ∃ v : Half, exec .rdpth s = .next { s with snap := v } ∧
    ∀ k < 16, v.getLsbD k = if k < 8 then s.snap.getLsbD k else s.pulseTicks.getLsbD k)

/-- R147: SNAPSHOT expands to the critical section, low byte first. The third clause follows the model's free
run (log 5, DESIGN CHOICE), one interleaving: there its five steps leave `SNAP = PULSE_TICKS` and `IE = 1`,
whatever `IE` was. `Obligations.SnapshotInEveryInterleaving` is about all of them. -/
def Obligations.SnapshotCopiesPulseTicks : Prop :=
  decode 0x14000000 = .ok .snapshot ∧
  (∀ s : State, exec .snapshot s = .next { s with uq := [.irqDis, .rdptl, .rdpth, .irqEn] ++ s.uq }) ∧
  ∀ (s : State) (rest : List Instr), s.quiet → s.dly = 0 → s.uq = .snapshot :: rest →
    SafeRun 5 s { s with uq := rest, snap := s.pulseTicks, ie := true }

/-- R68: after `IRQ_DIS; RDPTL; RDPTH` the copy equals the value `PULSE_TICKS` had and still has, whatever
steps of the other agents come in between (a reset apart), and whether the three are queued together or
fetched one by one. Step by step: IRQ_DIS disables; from then on only IRQ_EN enables, and `PULSE_TICKS` stays;
RDPTL waits or makes the low bytes agree; a state with an empty queue waits or fetches and keeps the copy;
RDPTH waits or makes the copy whole. -/
def Obligations.CriticalSectionReadCannotTear : Prop :=
  ∀ s t : State, step s = .next t → s.takesReset = false →
    (s.performs .irqDis → t.ie = false ∧ t.pulseTicks = s.pulseTicks) ∧
    (s.ie = false → ¬ s.performs .irqEn → t.ie = false ∧ t.pulseTicks = s.pulseTicks) ∧
    (∀ rest, s.ie = false → s.uq = .rdptl :: rest →
      t.ie = false ∧ t.pulseTicks = s.pulseTicks ∧
      ((t.uq = s.uq ∧ t.snap = s.snap) ∨ (t.uq = rest ∧ sameLowByte t.snap s.pulseTicks))) ∧
    (s.uq = [] → t.snap = s.snap ∧
      (t.uq = [] ∨ ∃ w i, s.program.word? s.pcidx = some w ∧ decode w = .ok i ∧ t.uq = [i])) ∧
    (∀ rest, s.ie = false → s.uq = .rdpth :: rest → sameLowByte s.snap s.pulseTicks →
      t.ie = false ∧ t.pulseTicks = s.pulseTicks ∧
      ((t.uq = s.uq ∧ t.snap = s.snap) ∨ (t.uq = rest ∧ t.snap = s.pulseTicks)))

/-- R30, R202: `IE` is cleared by IRQ_DIS and set by IRQ_EN and by nothing else (a reset apart). -/
def Obligations.InterruptEnableHasTwoWriters : Prop :=
  ∀ s t : State, step s = .next t → s.takesReset = false → t.ie ≠ s.ie →
    (s.performs .irqDis ∧ t.ie = false) ∨ (s.performs .irqEn ∧ t.ie = true)

/-! ## Display -/

/-- R100: ENC looks the digit up in `SEGTAB`; above 9 it is refused. -/
def Obligations.EncodeLooksUpTheTable : Prop :=
  (∀ d : BitVec 4, decode (0x20000000 ||| d.setWidth 32) = .ok (.enc d)) ∧
  ∀ (s : State) (d : BitVec 4),
    (∀ h : d.toNat < 10, exec (.enc d) s = .next { s with pat := s.params.segtab[d.toNat] }) ∧
    (9 < d.toNat → exec (.enc d) s = .refused .digitOutOfRange)

/-- The four legal positions of R104 with their lines. -/
def Sys2Proof.Spec.positionLines : List (BitVec 3 × BitVec 4) :=
  [(1, 0b1110), (2, 0b1101), (3, 0b1011), (4, 0b0111)]

/-- R101 to R104: the digit driver's micro-operations. -/
def Obligations.DigitDriverLines : Prop :=
  (decode 0x21000000 = .ok .posBlank ∧ ∀ s : State, exec .posBlank s = .next { s with pos := 0b1111 }) ∧
  (decode 0x22000000 = .ok .segOff ∧ ∀ s : State, exec .segOff s = .next { s with seg := 0xFF }) ∧
  (decode 0x23000000 = .ok .segSet ∧ ∀ s : State, exec .segSet s = .next { s with seg := s.pat }) ∧
  (∀ p : BitVec 3, decode (0x24000000 ||| (p.setWidth 32 <<< 4)) = .ok (.posSel p)) ∧
  (∀ s : State, ∀ r ∈ Spec.positionLines, exec (.posSel r.1) s = .next { s with pos := r.2 }) ∧
  (∀ (s : State) (p : BitVec 3), p = 0 ∨ 4 < p.toNat → exec (.posSel p) s = .refused .positionOutOfRange)

/-- R105, R106: the delay in ticks; while `DLY > 0` the sequencer has no enabled step, and each tick lowers
it by one. -/
def Obligations.DelaysCountTicks : Prop :=
  (∀ n : Half, decode (0x30000000 ||| n.setWidth 32) = .ok (.delayUs n.toNat)) ∧
  (∀ n : Half, decode (0x31000000 ||| n.setWidth 32) = .ok (.delayMs n.toNat)) ∧
  (∀ (s : State) (n : Nat), exec (.delayUs n) s = .next { s with dly := n * s.params.ticksPerUs }) ∧
  (∀ (s : State) (n : Nat), exec (.delayMs n) s = .next { s with dly := n * 1000 * s.params.ticksPerUs }) ∧
  (∀ s : State, 0 < s.dly → ¬ s.enabled .seq ∧ s.turn ≠ .seq) ∧
  (∀ s : State, 0 < s.dly → s.tick.dly + 1 = s.dly)

/-- R9, R105: while `DLY > 0` no step but a reset moves the sequencer or an output, and `DLY` goes down by
exactly the ticks taken; handler and ENV steps go on. -/
def Obligations.SequencerWaitsForTheDelay : Prop :=
  ∀ s t : State, step s = .next t → s.takesReset = false → 0 < s.dly →
    t.uq = s.uq ∧ t.pcidx = s.pcidx ∧ t.trig = s.trig ∧ t.pos = s.pos ∧ t.seg = s.seg ∧ t.pat = s.pat ∧
    t.snap = s.snap ∧ t.distanceCm = s.distanceCm ∧ t.cadence = s.cadence ∧ t.iter = s.iter ∧
    t.ie = s.ie ∧ t.dly = s.dly - s.ticksTaken

/-- R107: SHOW_DIGIT's encoding, its refusals (the digit test first) and its expansion. The last clause
follows the model's free run (log 5, DESIGN CHOICE), one interleaving: there its seven steps leave the pattern
on the segment lines, one position line asserted and the settle delay running.
`Obligations.ShowDigitInEveryInterleaving` is about all of them. -/
def Obligations.ShowDigitLightsOneDigit : Prop :=
  (∀ (d : BitVec 4) (p : BitVec 3),
    decode (0x28000000 ||| (p.setWidth 32 <<< 4) ||| d.setWidth 32) = .ok (.showDigit d p)) ∧
  (∀ (s : State) (d : BitVec 4) (p : BitVec 3), 9 < d.toNat →
    exec (.showDigit d p) s = .refused .digitOutOfRange) ∧
  (∀ (s : State) (d : BitVec 4) (p : BitVec 3), d.toNat ≤ 9 → p = 0 ∨ 4 < p.toNat →
    exec (.showDigit d p) s = .refused .positionOutOfRange) ∧
  (∀ (s : State) (d : BitVec 4) (p : BitVec 3), d.toNat ≤ 9 → 1 ≤ p.toNat → p.toNat ≤ 4 →
    exec (.showDigit d p) s = .next { s with
      uq := [.posBlank, .segOff, .enc d, .segSet, .posSel p, .delayMs s.params.settleMs] ++ s.uq }) ∧
  (∀ (s : State) (d : BitVec 4) (rest : List Instr) (h : d.toNat < 10), ∀ r ∈ Spec.positionLines,
    s.quiet → s.dly = 0 → s.uq = .showDigit d r.1 :: rest →
    SafeRun 7 s { s with
      uq := rest, pat := s.params.segtab[d.toNat], seg := s.params.segtab[d.toNat], pos := r.2,
      dly := s.params.settleMs * 1000 * s.params.ticksPerUs })

/-- R108, R110, R111: DISPNUM expands to one SHOW_DIGIT per decimal digit of `min(v, 9999)`, least
significant first from position 1, and to the bare zero for 0. -/
def Obligations.DispnumExpandsToItsDigits : Prop :=
  (∀ v : Half, decode (0x29000000 ||| v.setWidth 32) = .ok (.dispnum v)) ∧
  ∀ (s : State) (v : Half),
    exec (.dispnum v) s = .next { s with
      uq := (digitPairs (min v.toNat 9999) 1 (decimalLength (min v.toNat 9999))).map
          (fun r => .showDigit (BitVec.ofNat 4 r.1) (BitVec.ofNat 3 r.2)) ++ s.uq }

/-- R108: "`v > 9999` behaves exactly as `v = 9999`". -/
def Obligations.LargeNumbersShowAsTheClamp : Prop :=
  ∀ (s : State) (v : Half), 9999 < v.toNat → exec (.dispnum v) s = exec (.dispnum 9999) s

/-- R110 and the clamp of R108, in the model's free run (log 5, DESIGN CHOICE), one interleaving: DISPNUM comes
to its end. From every state in which the unit is left alone, with every table whose entries are pairwise
different and every delay parameter, running DISPNUM to its end strobes exactly the decimal digits of
`min(v, 9999)`, least significant first, at positions 1, 2, … `Obligations.DispnumStrobesInEveryInterleaving`
is about all interleavings. -/
def Obligations.DispnumStrobesItsDigits : Prop :=
  ∀ (s : State) (v : Half) (rest : List Instr), s.quiet → s.dly = 0 → s.params.wf →
    s.uq = .dispnum v :: rest →
    ∃ k t, SafeRun k s t ∧ t.uq = rest ∧ t.dly = 0 ∧ t.pcidx = s.pcidx ∧
      strobes k s = digitPairs (min v.toNat 9999) 1 (decimalLength (min v.toNat 9999))

/-! ## Host level -/

/-- R170, R171, R172: the trigger pulse. The last clause follows the model's free run (log 5, DESIGN CHOICE),
one interleaving, with steps that take no ticks (log 11): there the line is high for exactly
`10 * TICKS_PER_US` ticks, then low. R172 says that many or more, which is
`Obligations.TriggerPulseInEveryInterleaving`. -/
def Obligations.TriggerPulseHasItsWidth : Prop :=
  (decode 0x40000000 = .ok .trigHi ∧ ∀ s : State, exec .trigHi s = .next { s with trig := true }) ∧
  (decode 0x41000000 = .ok .trigLo ∧ ∀ s : State, exec .trigLo s = .next { s with trig := false }) ∧
  (decode 0x42000000 = .ok .trigger ∧
    ∀ s : State, exec .trigger s = .next { s with uq := [.trigHi, .delayUs 10, .trigLo] ++ s.uq }) ∧
  ∀ (s : State) (rest : List Instr), s.quiet → s.dly = 0 → s.uq = .trigger :: rest →
    (∀ j, j ≤ 10 * s.params.ticksPerUs →
      SafeRun (3 + j) s { s with
        uq := .trigLo :: rest, trig := true, dly := 10 * s.params.ticksPerUs - j,
        cnt := if s.run then s.cnt + BitVec.ofNat 16 j else s.cnt }) ∧
    SafeRun (3 + 10 * s.params.ticksPerUs + 1) s { s with
      uq := rest, trig := false,
      cnt := if s.run then s.cnt + BitVec.ofNat 16 (10 * s.params.ticksPerUs) else s.cnt }

/-- R173 with its table of all eight values of `CSEL`. -/
def Obligations.SelectLinesPickTheCadence : Prop :=
  decode 0x43000000 = .ok .selcad ∧
  ∀ s : State,
    (s.csel = 0b000 ∨ s.csel = 0b010 ∨ s.csel = 0b100 ∨ s.csel = 0b110 →
      exec .selcad s = .next { s with cadence := 10 }) ∧
    (s.csel = 0b001 ∨ s.csel = 0b101 → exec .selcad s = .next { s with cadence := 1000 }) ∧
    (s.csel = 0b011 → exec .selcad s = .next { s with cadence := 65535 }) ∧
    (s.csel = 0b111 → exec .selcad s = .next s)

/-- R174: the unsigned quotient by 58, rounded toward zero, at most 1129. -/
def Obligations.ConversionDividesByFiftyEight : Prop :=
  decode 0x44000000 = .ok .conv ∧
  ∀ s : State, exec .conv s = .next { s with distanceCm := BitVec.ofNat 16 (s.snap.toNat / 58) } ∧
    s.snap.toNat / 58 ≤ 1129

/-- R175, R176. -/
def Obligations.IterationCounterCounts : Prop :=
  (decode 0x45000000 = .ok .iterInc ∧ ∀ s : State,
    exec .iterInc s = .next { s with iter := BitVec.ofNat 16 ((s.iter.toNat + 1) % 65536) }) ∧
  (decode 0x46000000 = .ok .iterClr ∧ ∀ s : State, exec .iterClr s = .next { s with iter := 0 })

/-- R177: the condition is read at the expansion, "has reached" is `>=`, and 65535 never triggers. -/
def Obligations.CadenceCheckSchedulesACycle : Prop :=
  decode 0x47000000 = .ok .miCheck ∧
  ∀ s : State,
    (s.cadence.toNat ≤ s.iter.toNat → s.cadence ≠ 65535 →
      exec .miCheck s = .next { s with uq := [.snapshot, .conv, .trigger, .iterClr] ++ s.uq }) ∧
    (s.iter.toNat < s.cadence.toNat ∨ s.cadence = 65535 → exec .miCheck s = .next s)

/-- R178: the four parts of an iteration, the number being the distance at the expansion. -/
def Obligations.MainIterationExpands : Prop :=
  decode 0x4F000000 = .ok .mainIter ∧
  ∀ s : State, exec .mainIter s = .next { s with
    uq := [.dispnum s.distanceCm, .iterInc, .selcad, .miCheck] ++ s.uq }

/-! ## Environment, reset, schedules -/

/-- R192: the select lines take their levels, and nothing else changes. -/
def Obligations.SelectLinesFollowTheEnvironment : Prop :=
  (∀ c : BitVec 3, decode (0xE2000000 ||| c.setWidth 32) = .ok (.evCsel c)) ∧
  ∀ (s : State) (c : BitVec 3), exec (.evCsel c) s = .next { s with csel := c }

/-- R193 with the values of R44: every register and output, the inputs keep their levels. That the
parameters, the program and the run (`schedule`, `budget`) stay is log 17. -/
def Obligations.ResetGivesEveryRegisterItsValue : Prop :=
  decode 0xEF000000 = .ok .evReset ∧
  ∀ s : State, ∃ t, exec .evReset s = .next t ∧
    t.edgeState = .idle ∧ t.cnt = 0 ∧ t.run = false ∧ t.pulseTicks = 0 ∧ t.ie = false ∧ t.ipend = false ∧
    t.pat = 0xFF ∧ t.snap = 0 ∧ t.distanceCm = 0 ∧ t.cadence = s.params.cadenceReset.value ∧ t.iter = 0 ∧
    t.dly = 0 ∧ t.uq = [] ∧ t.pcidx = 0 ∧ t.trig = false ∧ t.pos = 0b1111 ∧ t.seg = 0xFF ∧
    t.echo = s.echo ∧ t.csel = s.csel ∧ t.params = s.params ∧ t.program = s.program ∧
    t.schedule = s.schedule ∧ t.budget = s.budget

/-- R44: the state a run starts in, for every value of the parameters. -/
def Obligations.RunStartsInTheResetState : Prop :=
  ∀ (p : Params) (prog : Program) (sched : List Word),
    State.powerOn p prog sched =
      { edgeState := .idle, cnt := 0, run := false, pulseTicks := 0, ie := false, ipend := false,
        pat := 0xFF, snap := 0, distanceCm := 0, cadence := p.cadenceReset.value, iter := 0, dly := 0,
        uq := [], pcidx := 0, trig := false, pos := 0b1111, seg := 0xFF, echo := p.echoReset,
        csel := p.cselReset, rst := false, params := p, program := prog, schedule := sched,
        budget := .idle }

/-- R195: EV_RUN n lets the sequencer move, at most `n` steps for `n > 0` and until none is enabled for 0;
with no EV_RUN going on and the schedule not empty the next item is taken. `budget` is the model's form of
it (log 8). -/
def Obligations.EvRunLetsTheSequencerMove : Prop :=
  (∀ n : Half, decode (0xE3000000 ||| n.setWidth 32) = .ok (.evRun n)) ∧
  (∀ (s : State) (n : Half), exec (.evRun n) s =
    .next { s with budget := if n = 0 then .unlimited else .upTo n.toNat }) ∧
  (∀ s : State, s.rst = false → s.irqEnabled = false → s.seqReady = true →
    (s.budget = .unlimited → s.turn = .seq ∧ s.budget.spend = .unlimited) ∧
    (∀ n, s.budget = .upTo n → 0 < n →
      s.turn = .seq ∧ s.budget.spend = if n = 1 then .idle else .upTo (n - 1))) ∧
  (∀ (s : State) (w : Word) (rest : List Word), s.rst = false → s.irqEnabled = false →
    s.schedule = w :: rest → (s.budget = .idle ∨ s.seqReady = false) → s.turn = .item w rest)

/-! ## Whole-machine rules -/

/-- R12, R39: `PCIDX` changes only by a fetch, which adds one (a reset apart). -/
def Obligations.ProgramPositionChangesOnlyByFetch : Prop :=
  ∀ s t : State, step s = .next t → s.takesReset = false → t.pcidx ≠ s.pcidx →
    s.turn = .seq ∧ s.uq = [] ∧ t.pcidx = s.pcidx + 1

/-- R5, R43, R60: no step changes a parameter or the program. -/
def Obligations.ParametersNeverChange : Prop :=
  ∀ s t : State, step s = .next t → t.params = s.params ∧ t.program = s.program

/-- R45, every row (a reset apart): which step may write each register. For `DLY` also R37: it goes up only by
a delay operation and otherwise goes down by ticks; for `UQ` R38: only SEQ steps change it. -/
def Obligations.RegistersHaveTheirWriters : Prop :=
  ∀ s t : State, step s = .next t → s.takesReset = false →
    (t.echo ≠ s.echo → ∃ w rest, s.turn = .item w rest ∧ decode w = .ok (.evEcho t.echo)) ∧
    (t.csel ≠ s.csel → ∃ w rest, s.turn = .item w rest ∧ decode w = .ok (.evCsel t.csel)) ∧
    (t.edgeState ≠ s.edgeState → s.turn = .irq) ∧
    (t.cnt ≠ s.cnt → s.turn = .irq ∨ s.performs .treset ∨ (s.run = true ∧ 0 < s.ticksTaken)) ∧
    (t.run ≠ s.run → s.turn = .irq ∨ s.performs .tstart ∨ s.performs .tstop) ∧
    (t.pulseTicks ≠ s.pulseTicks → s.turn = .irq) ∧
    (t.ie ≠ s.ie → s.performs .irqDis ∨ s.performs .irqEn) ∧
    (t.ipend ≠ s.ipend → s.turn = .irq ∨
      ∃ w rest, s.turn = .item w rest ∧ decode w = .ok (.evEcho t.echo)) ∧
    (t.trig ≠ s.trig → s.performs .trigHi ∨ s.performs .trigLo) ∧
    (t.pos ≠ s.pos → s.performs .posBlank ∨ ∃ p, s.performs (.posSel p)) ∧
    (t.seg ≠ s.seg → s.performs .segOff ∨ s.performs .segSet) ∧
    (t.pat ≠ s.pat → ∃ d, s.performs (.enc d)) ∧
    (t.snap ≠ s.snap → s.performs .rdptl ∨ s.performs .rdpth ∨ s.performs .tread) ∧
    (t.distanceCm ≠ s.distanceCm → s.performs .conv) ∧
    (t.cadence ≠ s.cadence → s.performs .selcad) ∧
    (t.iter ≠ s.iter → s.performs .iterInc ∨ s.performs .iterClr) ∧
    (t.dly ≠ s.dly → (∃ n, s.performs (.delayUs n)) ∨ (∃ n, s.performs (.delayMs n)) ∨
      (0 < s.ticksTaken ∧ t.dly < s.dly)) ∧
    (t.uq ≠ s.uq → s.turn = .seq) ∧
    (t.pcidx ≠ s.pcidx → s.turn = .seq ∧ s.uq = [])

/-- R24, R25, R32, R34, R35, R10: what every step keeps. The position lines stay mutually exclusive, the
segment lines and `PAT` show a table entry or nothing, `CADENCE` stays a preset, `DISTANCE_CM` is at most
1129, and no stimulus word is queued. -/
def Obligations.StepKeepsWellFormedState : Prop :=
  ∀ s t : State, s.wf → step s = .next t → t.wf

/-- The start of `Obligations.StepKeepsWellFormedState`, for every value of the parameters. -/
def Obligations.ResetStateIsWellFormed : Prop :=
  (∀ (p : Params) (prog : Program) (sched : List Word), (State.powerOn p prog sched).wf) ∧ State.reset.wf

/-- R86, and R11, R213 with the refusals each operation's rule gives: an operation with legal operands answers a next state in every state; one with an illegal
operand is refused, with the digit's reason before the position's. -/
def Obligations.LegalOperationsComplete : Prop :=
  ∀ (i : Instr) (s : State),
    (i.legal = true → ∃ t, exec i s = .next t) ∧
    (i.legal = false → exec i s =
      .refused (match i with
        | .enc _ => .digitOutOfRange
        | .showDigit d _ => if 9 < d.toNat then .digitOutOfRange else .positionOutOfRange
        | _ => .positionOutOfRange))

/-- R213, R11: a step answers a next state or one of the five refusals of the closed list, never a fault. -/
def Obligations.RefusalsAreTheClosedList : Prop :=
  ∀ s : State, (∃ t, step s = .next t) ∨
    ∃ r, step s = .refused r ∧ (r = .digitOutOfRange ∨ r = .positionOutOfRange ∨ r = .reservedEncoding ∨
      r = .stimulusInProgram ∨ r = .commandInSchedule)

/-! ## Composites in every interleaving (R195: "a claim about the CDU quantifies over all interleavings") -/

/-- R107: whatever agents move in between (a reset apart), each step with SHOW_DIGIT at the head of the queue
leaves it there or expands it; each step of the expansion under way keeps its phase or takes it one further,
so that all position lines are deasserted while the segment lines change; the last sets the settle delay. The
one strobe (R109) is the POS_SEL of the fifth step, of digit `d` at position `p`. -/
def Obligations.ShowDigitInEveryInterleaving : Prop :=
  ∀ (s t : State) (d : BitVec 4) (p : BitVec 3) (rest : List Instr),
    step s = .next t → s.takesReset = false →
    (s.uq = .showDigit d p :: rest →
      t.pos = s.pos ∧ t.seg = s.seg ∧ t.pat = s.pat ∧ s.strobe? = none ∧
      (t.uq = s.uq ∨ t.driverPhase d p rest 0)) ∧
    ∀ n ≤ 5, s.driverPhase d p rest n →
      (t.driverPhase d p rest n ∨
        (t.driverPhase d p rest (n + 1) ∧
          (n = 5 → t.dly = s.params.settleMs * 1000 * s.params.ticksPerUs))) ∧
      (s.params.wf → s.strobe? = if n = 4 ∧ s.turn = .seq then some (d.toNat, p.toNat) else none)

/-- R110 with the clamp of R108: in every run of a DISPNUM, whatever agents move in between (a reset apart),
the strobes so far are an initial part of the decimal digits of `min(v, 9999)`, least significant first, at
positions 1, 2, …, and when the queue is back to what stood behind the DISPNUM they are all of them. -/
def Obligations.DispnumStrobesInEveryInterleaving : Prop :=
  ∀ (s t : State) (v : Half) (rest : List Instr) (k : Nat),
    s.params.wf → s.uq = .dispnum v :: rest → SafeRun k s t →
    (∀ j < k, ∀ u, SafeRun j s u → u.takesReset = false ∧ rest.length < u.uq.length) →
    strobes k s <+: digitPairs (min v.toNat 9999) 1 (decimalLength (min v.toNat 9999)) ∧
    (t.uq = rest →
      strobes k s = digitPairs (min v.toNat 9999) 1 (decimalLength (min v.toNat 9999)))

/-- R172, R105: whatever agents move in between (a reset apart), each step of the trigger pulse waits or goes
on: the line goes high, stays high while the delay of `10 * TICKS_PER_US` ticks is loaded and, with `DLY`
going down only by ticks, until `DLY = 0`, and only then goes low. So the pulse is high for that many ticks
or more. -/
def Obligations.TriggerPulseInEveryInterleaving : Prop :=
  ∀ (s t : State) (rest : List Instr), step s = .next t → s.takesReset = false →
    (s.uq = .trigger :: rest → t.trig = s.trig ∧
      (t.uq = s.uq ∨ t.uq = .trigHi :: .delayUs 10 :: .trigLo :: rest)) ∧
    (s.uq = .trigHi :: rest → (t.uq = s.uq ∧ t.trig = s.trig) ∨ (t.uq = rest ∧ t.trig = true)) ∧
    (s.uq = .delayUs 10 :: .trigLo :: rest → s.trig = true → t.trig = true ∧
      (t.uq = s.uq ∨ (t.uq = .trigLo :: rest ∧ t.dly = 10 * s.params.ticksPerUs))) ∧
    (s.uq = .trigLo :: rest → s.trig = true →
      (t.uq = s.uq ∧ t.trig = true ∧ t.dly = s.dly - s.ticksTaken) ∨
      (s.dly = 0 ∧ t.uq = rest ∧ t.trig = false))

/-- R147: whatever agents move in between (a reset apart), each step with SNAPSHOT at the head of the queue
leaves it there or expands it, and each step of the expansion under way keeps its phase or takes it one
further, `PULSE_TICKS` staying as it is from IRQ_DIS to IRQ_EN: the copy is whole when `IE` is 1 again. -/
def Obligations.SnapshotInEveryInterleaving : Prop :=
  ∀ (s t : State) (rest : List Instr), step s = .next t → s.takesReset = false →
    (s.uq = .snapshot :: rest → t.uq = s.uq ∨ t.snapshotPhase rest 0) ∧
    ∀ n ≤ 3, s.snapshotPhase rest n →
      (t.snapshotPhase rest n ∨ t.snapshotPhase rest (n + 1)) ∧
      (1 ≤ n → t.pulseTicks = s.pulseTicks)
end

