-- ==== Sys2Proof/Laws/Decode.lean ====
section
/-! SUPPORT. The small lemmas of the packers and field extractors: each field of a packed word reads back,
and the must-be-zero bits of its format are 0. Later proofs cite these and do not look at bits. -/

namespace Sys2Proof

@[simp] theorem opcode_packWord (op : Byte) (f : BitVec 24) : opcode (packWord op f) = op := by
  ext k hk
  simp only [opcode, packWord, BitVec.getElem_extractLsb', BitVec.getLsbD_append]
  simp [hk]

@[simp] theorem immField_packWord (op : Byte) (n : Half) : immField (packWord op (packImm n)) = n := by
  ext k hk
  simp only [immField, packWord, packImm, BitVec.getElem_extractLsb', BitVec.getLsbD_append]
  simp [hk, show k < 24 by omega]

@[simp] theorem digitField_packWord (op : Byte) (d : BitVec 4) (p : BitVec 3) :
    digitField (packWord op (packDigitPosition d p)) = d := by
  ext k hk
  simp only [digitField, packWord, packDigitPosition, BitVec.getElem_extractLsb', BitVec.getLsbD_append]
  simp [hk, show k < 24 by omega]

@[simp] theorem positionField_packWord (op : Byte) (d : BitVec 4) (p : BitVec 3) :
    positionField (packWord op (packDigitPosition d p)) = p := by
  ext k hk
  simp only [positionField, packWord, packDigitPosition, BitVec.getElem_extractLsb', BitVec.getLsbD_append]
  simp [show 4 + k < 24 by omega, show 4 + k - 4 = k by omega, hk]

@[simp] theorem levelField_packWord (op : Byte) (l : Bool) : levelField (packWord op (packLevel l)) = l := by
  simp only [levelField, packWord, packLevel, BitVec.getLsbD_append]
  cases l <;> simp

@[simp] theorem linesField_packWord (op : Byte) (c : BitVec 3) : linesField (packWord op (packLines c)) = c := by
  ext k hk
  simp only [linesField, packWord, packLines, BitVec.getElem_extractLsb', BitVec.getLsbD_append]
  simp [hk, show k < 24 by omega]

/-- The opcode's place in a word, as a mask comparison sees it. -/
theorem packWord_and_mask (op : Byte) (f : BitVec 24) (m : Word)
    (hop : ∀ k, 24 ≤ k → k < 32 → m.getLsbD k = true)
    (hf : ∀ k, k < 24 → f.getLsbD k = true → m.getLsbD k = false) :
    packWord op f &&& m = op.setWidth 32 <<< 24 := by
  apply BitVec.eq_of_getLsbD_eq
  intro k hk
  rw [BitVec.getLsbD_and, packWord, BitVec.getLsbD_append]
  by_cases h : k < 24
  · cases hb : f.getLsbD k <;> simp [h]
    exact hf k h hb
  · simp [h, hop k (by omega) hk, show k < 32 from hk]

/-! A packed word belongs to its format: the must-be-zero bits are 0 (R81). -/

theorem mask_imm (op : Byte) (n : Half) :
    packWord op (packImm n) &&& Format.I.mask = op.setWidth 32 <<< 24 := by
  apply packWord_and_mask
  · intro k h1 h2; interval_cases k <;> rfl
  · intro k h hb
    have : k < 16 := by
      by_contra hk
      simp only [packImm, BitVec.getLsbD_append] at hb; simp [hk] at hb
    interval_cases k <;> rfl

theorem mask_digitPosition (op : Byte) (d : BitVec 4) (p : BitVec 3) :
    packWord op (packDigitPosition d p) &&& Format.DP.mask = op.setWidth 32 <<< 24 := by
  apply packWord_and_mask
  · intro k h1 h2; interval_cases k <;> rfl
  · intro k h hb
    have : k < 7 := by
      by_contra hk
      simp only [packDigitPosition, BitVec.getLsbD_append] at hb; simp [show ¬ k < 4 by omega, show ¬ k - 4 < 3 by omega] at hb
    interval_cases k <;> rfl

theorem mask_digit (op : Byte) (d : BitVec 4) :
    packWord op (packDigitPosition d 0) &&& Format.D.mask = op.setWidth 32 <<< 24 := by
  apply packWord_and_mask
  · intro k h1 h2; interval_cases k <;> rfl
  · intro k h hb
    have : k < 4 := by
      by_contra hk
      simp only [packDigitPosition, BitVec.getLsbD_append] at hb; simp [hk] at hb
    interval_cases k <;> rfl

theorem mask_position (op : Byte) (p : BitVec 3) :
    packWord op (packDigitPosition 0 p) &&& Format.P.mask = op.setWidth 32 <<< 24 := by
  apply packWord_and_mask
  · intro k h1 h2; interval_cases k <;> rfl
  · intro k h hb
    have : 4 ≤ k ∧ k < 7 := by
      by_contra hk
      by_cases h4 : k < 4
      · simp only [packDigitPosition, BitVec.getLsbD_append] at hb; simp [h4] at hb
      · simp only [packDigitPosition, BitVec.getLsbD_append] at hb; simp [h4, show ¬ k - 4 < 3 by omega] at hb
    obtain ⟨h1, h2⟩ := this
    interval_cases k <;> rfl

theorem mask_level (op : Byte) (l : Bool) :
    packWord op (packLevel l) &&& Format.L.mask = op.setWidth 32 <<< 24 := by
  apply packWord_and_mask
  · intro k h1 h2; interval_cases k <;> rfl
  · intro k h hb
    have : k < 1 := by
      by_contra hk
      simp only [packLevel, BitVec.getLsbD_append] at hb; simp [hk] at hb
    interval_cases k; rfl

theorem mask_lines (op : Byte) (c : BitVec 3) :
    packWord op (packLines c) &&& Format.C.mask = op.setWidth 32 <<< 24 := by
  apply packWord_and_mask
  · intro k h1 h2; interval_cases k <;> rfl
  · intro k h hb
    have : k < 3 := by
      by_contra hk
      simp only [packLines, BitVec.getLsbD_append] at hb; simp [hk] at hb
    interval_cases k <;> rfl

/-- A format I word as the spec writes it, `op << 24 | n`. -/
theorem or_imm (op : Byte) (n : Half) : (op ++ (0 : BitVec 24)) ||| n.setWidth 32 = packWord op (packImm n) := by
  apply BitVec.eq_of_getLsbD_eq
  intro k hk
  simp only [packWord, packImm, BitVec.getLsbD_or, BitVec.getLsbD_append, BitVec.getLsbD_setWidth]
  by_cases h16 : k < 16
  · simp [h16, show k < 24 by omega, hk]
  · have hn : n.getLsbD k = false := BitVec.getLsbD_of_ge _ _ (by omega)
    by_cases h24 : k < 24 <;> simp [h16, h24, hn]

/-- Decoding, by the row of the opcode: what `decode` answers when the row and the mask are known. -/
theorem decode_of_row {w : Word} {fmt : Format} {i : Instr}
    (hrow : row (opcode w).toNat w = some (fmt, i))
    (hmask : w &&& fmt.mask = (opcode w).setWidth 32 <<< 24) : decode w = .ok i := by
  simp [decode, hrow, hmask]

/-- A word that decodes: the opcode has a row, the row's operation is the answer and the mask agrees. -/
theorem decode_ok_cases {w : Word} {i : Instr} (h : decode w = .ok i) :
    ∃ fmt, row (opcode w).toNat w = some (fmt, i) ∧
      w &&& fmt.mask = (opcode w).setWidth 32 <<< 24 := by
  unfold decode at h
  split at h
  · cases h
  · next fmt j hrow =>
    split at h
    · next hm => cases h; exact ⟨fmt, hrow, hm⟩
    · cases h

end Sys2Proof
end

