-- ==== Sys2Proof/Laws/State.lean ====
section
/-! SUPPORT. What each register writer leaves in each field of State, one lemma per writer whose conjuncts
are the fields, true by rfl and in the simp set: later proofs never unfold a writer. -/

namespace Sys2Proof.Machine

@[simp] theorem State.setEdge_fields (s : State) (e : EdgeState) :
    (s.setEdge e).echo = s.echo ∧ (s.setEdge e).csel = s.csel ∧ (s.setEdge e).rst = s.rst ∧
    (s.setEdge e).trig = s.trig ∧ (s.setEdge e).pos = s.pos ∧ (s.setEdge e).seg = s.seg ∧
    (s.setEdge e).edgeState = e ∧ (s.setEdge e).cnt = s.cnt ∧ (s.setEdge e).run = s.run ∧
    (s.setEdge e).pulseTicks = s.pulseTicks ∧ (s.setEdge e).ie = s.ie ∧ (s.setEdge e).ipend = s.ipend ∧
    (s.setEdge e).pat = s.pat ∧ (s.setEdge e).snap = s.snap ∧ (s.setEdge e).distanceCm = s.distanceCm ∧
    (s.setEdge e).cadence = s.cadence ∧ (s.setEdge e).iter = s.iter ∧ (s.setEdge e).dly = s.dly ∧
    (s.setEdge e).uq = s.uq ∧ (s.setEdge e).pcidx = s.pcidx ∧ (s.setEdge e).params = s.params ∧
    (s.setEdge e).program = s.program ∧ (s.setEdge e).schedule = s.schedule ∧
    (s.setEdge e).budget = s.budget := by
  repeat' constructor

@[simp] theorem State.setRun_fields (s : State) (b : Bool) :
    (s.setRun b).echo = s.echo ∧ (s.setRun b).csel = s.csel ∧ (s.setRun b).rst = s.rst ∧
    (s.setRun b).trig = s.trig ∧ (s.setRun b).pos = s.pos ∧ (s.setRun b).seg = s.seg ∧
    (s.setRun b).edgeState = s.edgeState ∧ (s.setRun b).cnt = s.cnt ∧ (s.setRun b).run = b ∧
    (s.setRun b).pulseTicks = s.pulseTicks ∧ (s.setRun b).ie = s.ie ∧ (s.setRun b).ipend = s.ipend ∧
    (s.setRun b).pat = s.pat ∧ (s.setRun b).snap = s.snap ∧ (s.setRun b).distanceCm = s.distanceCm ∧
    (s.setRun b).cadence = s.cadence ∧ (s.setRun b).iter = s.iter ∧ (s.setRun b).dly = s.dly ∧
    (s.setRun b).uq = s.uq ∧ (s.setRun b).pcidx = s.pcidx ∧ (s.setRun b).params = s.params ∧
    (s.setRun b).program = s.program ∧ (s.setRun b).schedule = s.schedule ∧
    (s.setRun b).budget = s.budget := by
  repeat' constructor

@[simp] theorem State.setIe_fields (s : State) (b : Bool) :
    (s.setIe b).echo = s.echo ∧ (s.setIe b).csel = s.csel ∧ (s.setIe b).rst = s.rst ∧
    (s.setIe b).trig = s.trig ∧ (s.setIe b).pos = s.pos ∧ (s.setIe b).seg = s.seg ∧
    (s.setIe b).edgeState = s.edgeState ∧ (s.setIe b).cnt = s.cnt ∧ (s.setIe b).run = s.run ∧
    (s.setIe b).pulseTicks = s.pulseTicks ∧ (s.setIe b).ie = b ∧ (s.setIe b).ipend = s.ipend ∧
    (s.setIe b).pat = s.pat ∧ (s.setIe b).snap = s.snap ∧ (s.setIe b).distanceCm = s.distanceCm ∧
    (s.setIe b).cadence = s.cadence ∧ (s.setIe b).iter = s.iter ∧ (s.setIe b).dly = s.dly ∧
    (s.setIe b).uq = s.uq ∧ (s.setIe b).pcidx = s.pcidx ∧ (s.setIe b).params = s.params ∧
    (s.setIe b).program = s.program ∧ (s.setIe b).schedule = s.schedule ∧ (s.setIe b).budget = s.budget := by
  repeat' constructor

@[simp] theorem State.setIpend_fields (s : State) (b : Bool) :
    (s.setIpend b).echo = s.echo ∧ (s.setIpend b).csel = s.csel ∧ (s.setIpend b).rst = s.rst ∧
    (s.setIpend b).trig = s.trig ∧ (s.setIpend b).pos = s.pos ∧ (s.setIpend b).seg = s.seg ∧
    (s.setIpend b).edgeState = s.edgeState ∧ (s.setIpend b).cnt = s.cnt ∧ (s.setIpend b).run = s.run ∧
    (s.setIpend b).pulseTicks = s.pulseTicks ∧ (s.setIpend b).ie = s.ie ∧ (s.setIpend b).ipend = b ∧
    (s.setIpend b).pat = s.pat ∧ (s.setIpend b).snap = s.snap ∧
    (s.setIpend b).distanceCm = s.distanceCm ∧ (s.setIpend b).cadence = s.cadence ∧
    (s.setIpend b).iter = s.iter ∧ (s.setIpend b).dly = s.dly ∧ (s.setIpend b).uq = s.uq ∧
    (s.setIpend b).pcidx = s.pcidx ∧ (s.setIpend b).params = s.params ∧
    (s.setIpend b).program = s.program ∧ (s.setIpend b).schedule = s.schedule ∧
    (s.setIpend b).budget = s.budget := by
  repeat' constructor

@[simp] theorem State.writeEcho_fields (s : State) (l : Bool) :
    (s.writeEcho l).echo = l ∧ (s.writeEcho l).csel = s.csel ∧ (s.writeEcho l).rst = s.rst ∧
    (s.writeEcho l).trig = s.trig ∧ (s.writeEcho l).pos = s.pos ∧ (s.writeEcho l).seg = s.seg ∧
    (s.writeEcho l).edgeState = s.edgeState ∧ (s.writeEcho l).cnt = s.cnt ∧
    (s.writeEcho l).run = s.run ∧ (s.writeEcho l).pulseTicks = s.pulseTicks ∧
    (s.writeEcho l).ie = s.ie ∧ (s.writeEcho l).ipend = s.ipend ∧ (s.writeEcho l).pat = s.pat ∧
    (s.writeEcho l).snap = s.snap ∧ (s.writeEcho l).distanceCm = s.distanceCm ∧
    (s.writeEcho l).cadence = s.cadence ∧ (s.writeEcho l).iter = s.iter ∧ (s.writeEcho l).dly = s.dly ∧
    (s.writeEcho l).uq = s.uq ∧ (s.writeEcho l).pcidx = s.pcidx ∧ (s.writeEcho l).params = s.params ∧
    (s.writeEcho l).program = s.program ∧ (s.writeEcho l).schedule = s.schedule ∧
    (s.writeEcho l).budget = s.budget := by
  repeat' constructor

@[simp] theorem State.writeCsel_fields (s : State) (c : BitVec 3) :
    (s.writeCsel c).echo = s.echo ∧ (s.writeCsel c).csel = c ∧ (s.writeCsel c).rst = s.rst ∧
    (s.writeCsel c).trig = s.trig ∧ (s.writeCsel c).pos = s.pos ∧ (s.writeCsel c).seg = s.seg ∧
    (s.writeCsel c).edgeState = s.edgeState ∧ (s.writeCsel c).cnt = s.cnt ∧
    (s.writeCsel c).run = s.run ∧ (s.writeCsel c).pulseTicks = s.pulseTicks ∧
    (s.writeCsel c).ie = s.ie ∧ (s.writeCsel c).ipend = s.ipend ∧ (s.writeCsel c).pat = s.pat ∧
    (s.writeCsel c).snap = s.snap ∧ (s.writeCsel c).distanceCm = s.distanceCm ∧
    (s.writeCsel c).cadence = s.cadence ∧ (s.writeCsel c).iter = s.iter ∧ (s.writeCsel c).dly = s.dly ∧
    (s.writeCsel c).uq = s.uq ∧ (s.writeCsel c).pcidx = s.pcidx ∧ (s.writeCsel c).params = s.params ∧
    (s.writeCsel c).program = s.program ∧ (s.writeCsel c).schedule = s.schedule ∧
    (s.writeCsel c).budget = s.budget := by
  repeat' constructor

@[simp] theorem State.writeTrig_fields (s : State) (l : Bool) :
    (s.writeTrig l).echo = s.echo ∧ (s.writeTrig l).csel = s.csel ∧ (s.writeTrig l).rst = s.rst ∧
    (s.writeTrig l).trig = l ∧ (s.writeTrig l).pos = s.pos ∧ (s.writeTrig l).seg = s.seg ∧
    (s.writeTrig l).edgeState = s.edgeState ∧ (s.writeTrig l).cnt = s.cnt ∧
    (s.writeTrig l).run = s.run ∧ (s.writeTrig l).pulseTicks = s.pulseTicks ∧
    (s.writeTrig l).ie = s.ie ∧ (s.writeTrig l).ipend = s.ipend ∧ (s.writeTrig l).pat = s.pat ∧
    (s.writeTrig l).snap = s.snap ∧ (s.writeTrig l).distanceCm = s.distanceCm ∧
    (s.writeTrig l).cadence = s.cadence ∧ (s.writeTrig l).iter = s.iter ∧ (s.writeTrig l).dly = s.dly ∧
    (s.writeTrig l).uq = s.uq ∧ (s.writeTrig l).pcidx = s.pcidx ∧ (s.writeTrig l).params = s.params ∧
    (s.writeTrig l).program = s.program ∧ (s.writeTrig l).schedule = s.schedule ∧
    (s.writeTrig l).budget = s.budget := by
  repeat' constructor

@[simp] theorem State.writePos_fields (s : State) (v : BitVec 4) :
    (s.writePos v).echo = s.echo ∧ (s.writePos v).csel = s.csel ∧ (s.writePos v).rst = s.rst ∧
    (s.writePos v).trig = s.trig ∧ (s.writePos v).pos = v ∧ (s.writePos v).seg = s.seg ∧
    (s.writePos v).edgeState = s.edgeState ∧ (s.writePos v).cnt = s.cnt ∧ (s.writePos v).run = s.run ∧
    (s.writePos v).pulseTicks = s.pulseTicks ∧ (s.writePos v).ie = s.ie ∧
    (s.writePos v).ipend = s.ipend ∧ (s.writePos v).pat = s.pat ∧ (s.writePos v).snap = s.snap ∧
    (s.writePos v).distanceCm = s.distanceCm ∧ (s.writePos v).cadence = s.cadence ∧
    (s.writePos v).iter = s.iter ∧ (s.writePos v).dly = s.dly ∧ (s.writePos v).uq = s.uq ∧
    (s.writePos v).pcidx = s.pcidx ∧ (s.writePos v).params = s.params ∧
    (s.writePos v).program = s.program ∧ (s.writePos v).schedule = s.schedule ∧
    (s.writePos v).budget = s.budget := by
  repeat' constructor

@[simp] theorem State.writeSeg_fields (s : State) (v : Byte) :
    (s.writeSeg v).echo = s.echo ∧ (s.writeSeg v).csel = s.csel ∧ (s.writeSeg v).rst = s.rst ∧
    (s.writeSeg v).trig = s.trig ∧ (s.writeSeg v).pos = s.pos ∧ (s.writeSeg v).seg = v ∧
    (s.writeSeg v).edgeState = s.edgeState ∧ (s.writeSeg v).cnt = s.cnt ∧ (s.writeSeg v).run = s.run ∧
    (s.writeSeg v).pulseTicks = s.pulseTicks ∧ (s.writeSeg v).ie = s.ie ∧
    (s.writeSeg v).ipend = s.ipend ∧ (s.writeSeg v).pat = s.pat ∧ (s.writeSeg v).snap = s.snap ∧
    (s.writeSeg v).distanceCm = s.distanceCm ∧ (s.writeSeg v).cadence = s.cadence ∧
    (s.writeSeg v).iter = s.iter ∧ (s.writeSeg v).dly = s.dly ∧ (s.writeSeg v).uq = s.uq ∧
    (s.writeSeg v).pcidx = s.pcidx ∧ (s.writeSeg v).params = s.params ∧
    (s.writeSeg v).program = s.program ∧ (s.writeSeg v).schedule = s.schedule ∧
    (s.writeSeg v).budget = s.budget := by
  repeat' constructor

@[simp] theorem State.writeCnt_fields (s : State) (v : Half) :
    (s.writeCnt v).echo = s.echo ∧ (s.writeCnt v).csel = s.csel ∧ (s.writeCnt v).rst = s.rst ∧
    (s.writeCnt v).trig = s.trig ∧ (s.writeCnt v).pos = s.pos ∧ (s.writeCnt v).seg = s.seg ∧
    (s.writeCnt v).edgeState = s.edgeState ∧ (s.writeCnt v).cnt = v ∧ (s.writeCnt v).run = s.run ∧
    (s.writeCnt v).pulseTicks = s.pulseTicks ∧ (s.writeCnt v).ie = s.ie ∧
    (s.writeCnt v).ipend = s.ipend ∧ (s.writeCnt v).pat = s.pat ∧ (s.writeCnt v).snap = s.snap ∧
    (s.writeCnt v).distanceCm = s.distanceCm ∧ (s.writeCnt v).cadence = s.cadence ∧
    (s.writeCnt v).iter = s.iter ∧ (s.writeCnt v).dly = s.dly ∧ (s.writeCnt v).uq = s.uq ∧
    (s.writeCnt v).pcidx = s.pcidx ∧ (s.writeCnt v).params = s.params ∧
    (s.writeCnt v).program = s.program ∧ (s.writeCnt v).schedule = s.schedule ∧
    (s.writeCnt v).budget = s.budget := by
  repeat' constructor

@[simp] theorem State.writePulseTicks_fields (s : State) (v : Half) :
    (s.writePulseTicks v).echo = s.echo ∧ (s.writePulseTicks v).csel = s.csel ∧
    (s.writePulseTicks v).rst = s.rst ∧ (s.writePulseTicks v).trig = s.trig ∧
    (s.writePulseTicks v).pos = s.pos ∧ (s.writePulseTicks v).seg = s.seg ∧
    (s.writePulseTicks v).edgeState = s.edgeState ∧ (s.writePulseTicks v).cnt = s.cnt ∧
    (s.writePulseTicks v).run = s.run ∧ (s.writePulseTicks v).pulseTicks = v ∧
    (s.writePulseTicks v).ie = s.ie ∧ (s.writePulseTicks v).ipend = s.ipend ∧
    (s.writePulseTicks v).pat = s.pat ∧ (s.writePulseTicks v).snap = s.snap ∧
    (s.writePulseTicks v).distanceCm = s.distanceCm ∧ (s.writePulseTicks v).cadence = s.cadence ∧
    (s.writePulseTicks v).iter = s.iter ∧ (s.writePulseTicks v).dly = s.dly ∧
    (s.writePulseTicks v).uq = s.uq ∧ (s.writePulseTicks v).pcidx = s.pcidx ∧
    (s.writePulseTicks v).params = s.params ∧ (s.writePulseTicks v).program = s.program ∧
    (s.writePulseTicks v).schedule = s.schedule ∧ (s.writePulseTicks v).budget = s.budget := by
  repeat' constructor

@[simp] theorem State.writePat_fields (s : State) (v : Byte) :
    (s.writePat v).echo = s.echo ∧ (s.writePat v).csel = s.csel ∧ (s.writePat v).rst = s.rst ∧
    (s.writePat v).trig = s.trig ∧ (s.writePat v).pos = s.pos ∧ (s.writePat v).seg = s.seg ∧
    (s.writePat v).edgeState = s.edgeState ∧ (s.writePat v).cnt = s.cnt ∧ (s.writePat v).run = s.run ∧
    (s.writePat v).pulseTicks = s.pulseTicks ∧ (s.writePat v).ie = s.ie ∧
    (s.writePat v).ipend = s.ipend ∧ (s.writePat v).pat = v ∧ (s.writePat v).snap = s.snap ∧
    (s.writePat v).distanceCm = s.distanceCm ∧ (s.writePat v).cadence = s.cadence ∧
    (s.writePat v).iter = s.iter ∧ (s.writePat v).dly = s.dly ∧ (s.writePat v).uq = s.uq ∧
    (s.writePat v).pcidx = s.pcidx ∧ (s.writePat v).params = s.params ∧
    (s.writePat v).program = s.program ∧ (s.writePat v).schedule = s.schedule ∧
    (s.writePat v).budget = s.budget := by
  repeat' constructor

@[simp] theorem State.writeSnap_fields (s : State) (v : Half) :
    (s.writeSnap v).echo = s.echo ∧ (s.writeSnap v).csel = s.csel ∧ (s.writeSnap v).rst = s.rst ∧
    (s.writeSnap v).trig = s.trig ∧ (s.writeSnap v).pos = s.pos ∧ (s.writeSnap v).seg = s.seg ∧
    (s.writeSnap v).edgeState = s.edgeState ∧ (s.writeSnap v).cnt = s.cnt ∧
    (s.writeSnap v).run = s.run ∧ (s.writeSnap v).pulseTicks = s.pulseTicks ∧
    (s.writeSnap v).ie = s.ie ∧ (s.writeSnap v).ipend = s.ipend ∧ (s.writeSnap v).pat = s.pat ∧
    (s.writeSnap v).snap = v ∧ (s.writeSnap v).distanceCm = s.distanceCm ∧
    (s.writeSnap v).cadence = s.cadence ∧ (s.writeSnap v).iter = s.iter ∧ (s.writeSnap v).dly = s.dly ∧
    (s.writeSnap v).uq = s.uq ∧ (s.writeSnap v).pcidx = s.pcidx ∧ (s.writeSnap v).params = s.params ∧
    (s.writeSnap v).program = s.program ∧ (s.writeSnap v).schedule = s.schedule ∧
    (s.writeSnap v).budget = s.budget := by
  repeat' constructor

@[simp] theorem State.writeDistance_fields (s : State) (v : Half) :
    (s.writeDistance v).echo = s.echo ∧ (s.writeDistance v).csel = s.csel ∧
    (s.writeDistance v).rst = s.rst ∧ (s.writeDistance v).trig = s.trig ∧
    (s.writeDistance v).pos = s.pos ∧ (s.writeDistance v).seg = s.seg ∧
    (s.writeDistance v).edgeState = s.edgeState ∧ (s.writeDistance v).cnt = s.cnt ∧
    (s.writeDistance v).run = s.run ∧ (s.writeDistance v).pulseTicks = s.pulseTicks ∧
    (s.writeDistance v).ie = s.ie ∧ (s.writeDistance v).ipend = s.ipend ∧
    (s.writeDistance v).pat = s.pat ∧ (s.writeDistance v).snap = s.snap ∧
    (s.writeDistance v).distanceCm = v ∧ (s.writeDistance v).cadence = s.cadence ∧
    (s.writeDistance v).iter = s.iter ∧ (s.writeDistance v).dly = s.dly ∧
    (s.writeDistance v).uq = s.uq ∧ (s.writeDistance v).pcidx = s.pcidx ∧
    (s.writeDistance v).params = s.params ∧ (s.writeDistance v).program = s.program ∧
    (s.writeDistance v).schedule = s.schedule ∧ (s.writeDistance v).budget = s.budget := by
  repeat' constructor

@[simp] theorem State.writeCadence_fields (s : State) (v : Half) :
    (s.writeCadence v).echo = s.echo ∧ (s.writeCadence v).csel = s.csel ∧
    (s.writeCadence v).rst = s.rst ∧ (s.writeCadence v).trig = s.trig ∧
    (s.writeCadence v).pos = s.pos ∧ (s.writeCadence v).seg = s.seg ∧
    (s.writeCadence v).edgeState = s.edgeState ∧ (s.writeCadence v).cnt = s.cnt ∧
    (s.writeCadence v).run = s.run ∧ (s.writeCadence v).pulseTicks = s.pulseTicks ∧
    (s.writeCadence v).ie = s.ie ∧ (s.writeCadence v).ipend = s.ipend ∧
    (s.writeCadence v).pat = s.pat ∧ (s.writeCadence v).snap = s.snap ∧
    (s.writeCadence v).distanceCm = s.distanceCm ∧ (s.writeCadence v).cadence = v ∧
    (s.writeCadence v).iter = s.iter ∧ (s.writeCadence v).dly = s.dly ∧ (s.writeCadence v).uq = s.uq ∧
    (s.writeCadence v).pcidx = s.pcidx ∧ (s.writeCadence v).params = s.params ∧
    (s.writeCadence v).program = s.program ∧ (s.writeCadence v).schedule = s.schedule ∧
    (s.writeCadence v).budget = s.budget := by
  repeat' constructor

@[simp] theorem State.writeIter_fields (s : State) (v : Half) :
    (s.writeIter v).echo = s.echo ∧ (s.writeIter v).csel = s.csel ∧ (s.writeIter v).rst = s.rst ∧
    (s.writeIter v).trig = s.trig ∧ (s.writeIter v).pos = s.pos ∧ (s.writeIter v).seg = s.seg ∧
    (s.writeIter v).edgeState = s.edgeState ∧ (s.writeIter v).cnt = s.cnt ∧
    (s.writeIter v).run = s.run ∧ (s.writeIter v).pulseTicks = s.pulseTicks ∧
    (s.writeIter v).ie = s.ie ∧ (s.writeIter v).ipend = s.ipend ∧ (s.writeIter v).pat = s.pat ∧
    (s.writeIter v).snap = s.snap ∧ (s.writeIter v).distanceCm = s.distanceCm ∧
    (s.writeIter v).cadence = s.cadence ∧ (s.writeIter v).iter = v ∧ (s.writeIter v).dly = s.dly ∧
    (s.writeIter v).uq = s.uq ∧ (s.writeIter v).pcidx = s.pcidx ∧ (s.writeIter v).params = s.params ∧
    (s.writeIter v).program = s.program ∧ (s.writeIter v).schedule = s.schedule ∧
    (s.writeIter v).budget = s.budget := by
  repeat' constructor

@[simp] theorem State.writeDly_fields (s : State) (n : Nat) :
    (s.writeDly n).echo = s.echo ∧ (s.writeDly n).csel = s.csel ∧ (s.writeDly n).rst = s.rst ∧
    (s.writeDly n).trig = s.trig ∧ (s.writeDly n).pos = s.pos ∧ (s.writeDly n).seg = s.seg ∧
    (s.writeDly n).edgeState = s.edgeState ∧ (s.writeDly n).cnt = s.cnt ∧ (s.writeDly n).run = s.run ∧
    (s.writeDly n).pulseTicks = s.pulseTicks ∧ (s.writeDly n).ie = s.ie ∧
    (s.writeDly n).ipend = s.ipend ∧ (s.writeDly n).pat = s.pat ∧ (s.writeDly n).snap = s.snap ∧
    (s.writeDly n).distanceCm = s.distanceCm ∧ (s.writeDly n).cadence = s.cadence ∧
    (s.writeDly n).iter = s.iter ∧ (s.writeDly n).dly = n ∧ (s.writeDly n).uq = s.uq ∧
    (s.writeDly n).pcidx = s.pcidx ∧ (s.writeDly n).params = s.params ∧
    (s.writeDly n).program = s.program ∧ (s.writeDly n).schedule = s.schedule ∧
    (s.writeDly n).budget = s.budget := by
  repeat' constructor

@[simp] theorem State.writeBudget_fields (s : State) (b : Budget) :
    (s.writeBudget b).echo = s.echo ∧ (s.writeBudget b).csel = s.csel ∧ (s.writeBudget b).rst = s.rst ∧
    (s.writeBudget b).trig = s.trig ∧ (s.writeBudget b).pos = s.pos ∧ (s.writeBudget b).seg = s.seg ∧
    (s.writeBudget b).edgeState = s.edgeState ∧ (s.writeBudget b).cnt = s.cnt ∧
    (s.writeBudget b).run = s.run ∧ (s.writeBudget b).pulseTicks = s.pulseTicks ∧
    (s.writeBudget b).ie = s.ie ∧ (s.writeBudget b).ipend = s.ipend ∧ (s.writeBudget b).pat = s.pat ∧
    (s.writeBudget b).snap = s.snap ∧ (s.writeBudget b).distanceCm = s.distanceCm ∧
    (s.writeBudget b).cadence = s.cadence ∧ (s.writeBudget b).iter = s.iter ∧
    (s.writeBudget b).dly = s.dly ∧ (s.writeBudget b).uq = s.uq ∧ (s.writeBudget b).pcidx = s.pcidx ∧
    (s.writeBudget b).params = s.params ∧ (s.writeBudget b).program = s.program ∧
    (s.writeBudget b).schedule = s.schedule ∧ (s.writeBudget b).budget = b := by
  repeat' constructor

@[simp] theorem State.pushFront_fields (s : State) (l : List Instr) :
    (s.pushFront l).echo = s.echo ∧ (s.pushFront l).csel = s.csel ∧ (s.pushFront l).rst = s.rst ∧
    (s.pushFront l).trig = s.trig ∧ (s.pushFront l).pos = s.pos ∧ (s.pushFront l).seg = s.seg ∧
    (s.pushFront l).edgeState = s.edgeState ∧ (s.pushFront l).cnt = s.cnt ∧
    (s.pushFront l).run = s.run ∧ (s.pushFront l).pulseTicks = s.pulseTicks ∧
    (s.pushFront l).ie = s.ie ∧ (s.pushFront l).ipend = s.ipend ∧ (s.pushFront l).pat = s.pat ∧
    (s.pushFront l).snap = s.snap ∧ (s.pushFront l).distanceCm = s.distanceCm ∧
    (s.pushFront l).cadence = s.cadence ∧ (s.pushFront l).iter = s.iter ∧ (s.pushFront l).dly = s.dly ∧
    (s.pushFront l).uq = l ++ s.uq ∧ (s.pushFront l).pcidx = s.pcidx ∧
    (s.pushFront l).params = s.params ∧ (s.pushFront l).program = s.program ∧
    (s.pushFront l).schedule = s.schedule ∧ (s.pushFront l).budget = s.budget := by
  repeat' constructor

end Sys2Proof.Machine
end

