-- ==== Sys2Proof/Laws/Ops.lean ====
section
/-! SUPPORT. One lemma per shared operation that says everything it does, for proofs to cite. -/

namespace Sys2Proof

/-! ## The command program -/

@[simp] theorem ProgramTail.word?_undefined (k : Nat) : (ProgramTail.repeating []).word? k = none := rfl

/-- The same entry for ever. -/
@[simp] theorem ProgramTail.word?_constant (c : Option Word) (k : Nat) :
    (ProgramTail.repeating [c]).word? k = c := by simp [ProgramTail.word?, Nat.mod_one]

@[simp] theorem ProgramTail.word?_free (n k : Nat) :
    (ProgramTail.free n).word? k = Config.freeProgram n k := rfl

@[simp] theorem Program.word?_empty (k : Nat) : Program.empty.word? k = none := by
  simp [Program.word?, Program.empty]

/-- Loading a word at `k` makes `PROGRAM(k)` that word and changes no other index. -/
theorem Program.word?_load (p : Program) (k : Nat) (w : Word) (j : Nat) :
    (p.load k w).word? j = if j = k then some w else p.word? j := by
  unfold Program.load
  split
  · next h =>
    by_cases hj : j = k
    · subst hj; simp [Program.word?, h]
    · simp [Program.word?, List.getElem?_set_ne (Ne.symm hj), hj]
  · next h =>
    have hk : p.cells.length ≤ k := by omega
    simp only [Program.word?]
    by_cases h1 : j < p.cells.length
    · have hne : j ≠ k := by omega
      rw [List.append_assoc, List.getElem?_append_left h1]
      simp [hne]
    · have hnone : p.cells[j]? = none := by simp; omega
      rw [List.append_assoc, List.getElem?_append_right (by omega), hnone]
      by_cases h2 : j < k
      · rw [List.getElem?_append_left (by simp; omega)]
        simp [show j - p.cells.length < k - p.cells.length by omega,
          show p.cells.length + (j - p.cells.length) = j by omega, show j ≠ k by omega]
      · rw [List.getElem?_append_right (by simp; omega)]
        by_cases hj : j = k
        · subst hj; simp
        · have : j - p.cells.length - (k - p.cells.length) ≠ 0 := by omega
          simp [hj, this]

namespace Machine

/-! ## Clock and edge detector -/

@[simp] theorem State.ticks_zero (s : State) : s.ticks 0 = s := by
  cases s; simp [State.ticks, countTicks, State.writeCnt, State.writeDly]

/-- One more tick of an EV_TICK is one more CLK step. -/
theorem State.ticks_succ (s : State) (n : Nat) : s.ticks (n + 1) = (s.ticks n).tick := by
  cases s with
  | mk =>
    simp only [State.ticks, State.tick, countTicks, State.writeCnt, State.writeDly]
    congr 1
    split
    · rw [BitVec.add_assoc]; congr 1; simp [BitVec.ofNat_add]
    · rfl

theorem State.ticks_eq (s : State) (n : Nat) :
    s.ticks n = { s with cnt := countTicks s.run s.cnt n, dly := s.dly - n } := rfl

theorem State.tick_eq (s : State) :
    s.tick = { s with cnt := (if s.run then s.cnt + 1 else s.cnt), dly := s.dly - 1 } := rfl

theorem State.senseEcho_same (s : State) : s.senseEcho s.echo = s := by simp [State.senseEcho]

theorem State.senseEcho_edge (s : State) : s.senseEcho (!s.echo) = { s with echo := !s.echo, ipend := true } := by
  have : (!s.echo) ≠ s.echo := by cases s.echo <;> decide
  simp [State.senseEcho, this, State.writeEcho, State.setIpend]

/-- Everything the edge detector does, in one equation. -/
theorem State.senseEcho_eq (s : State) (l : Bool) :
    s.senseEcho l = { s with echo := l, ipend := s.ipend || (l != s.echo) } := by
  unfold State.senseEcho
  split
  · next h => subst h; simp
  · next h => simp [h, State.writeEcho, State.setIpend]

/-! ## The interrupt -/

/-- Everything one handler run does, in one equation. -/
theorem State.takeInterrupt_eq (s : State) :
    s.takeInterrupt = { s with
      ipend := false
      cnt := if s.edgeState = .idle ∧ s.echo = false then 0 else s.cnt
      run := if s.edgeState = .idle ∧ s.echo = false then true
             else if s.edgeState = .timing ∧ s.echo = true then false else s.run
      pulseTicks := if s.edgeState = .timing ∧ s.echo = true then s.cnt else s.pulseTicks
      edgeState := if s.echo then .idle else .timing } := by
  obtain ⟨echo, csel, rst, trig, pos, seg, e, cnt, run, pulse, ie, ipend, pat, snap, dist, cad, iter, dly, uq, pcidx,
    params, program, sched, budget⟩ := s
  cases e <;> cases echo <;> rfl

/-! ## Reset -/

/-- Everything the reset step does, in one equation. -/
theorem State.resetStep_eq (s : State) :
    s.resetStep = { State.powerOn s.params s.program s.schedule with
      echo := s.echo, csel := s.csel, budget := s.budget } := rfl

/-! ## Operand values -/

theorem legalDigit_iff (d : BitVec 4) : legalDigit d = true ↔ d.toNat ≤ 9 := decide_eq_true_iff

theorem legalDigit_eq_false_iff (d : BitVec 4) : legalDigit d = false ↔ 9 < d.toNat :=
  decide_eq_false_iff_not.trans Nat.not_le

theorem legalPosition_iff (p : BitVec 3) : legalPosition p = true ↔ 1 ≤ p.toNat ∧ p.toNat ≤ 4 :=
  decide_eq_true_iff

theorem legalPosition_eq_false_iff (p : BitVec 3) : legalPosition p = false ↔ p = 0 ∨ 4 < p.toNat := by
  revert p; decide

theorem presetValue_cases (p : Preset) : p.value = 10 ∨ p.value = 1000 ∨ p.value = 65535 := by
  cases p <;> simp [Preset.value]

/-- The bits of a value joined from two bytes. -/
theorem joinBytes_getLsbD (high low : Byte) (k : Nat) :
    (joinBytes high low).getLsbD k = if k < 8 then low.getLsbD k else high.getLsbD (k - 8) := by
  simp only [joinBytes]; rw [BitVec.getLsbD_append]

theorem lowByte_getLsbD (v : Half) (k : Nat) : (lowByte v).getLsbD k = (decide (k < 8) && v.getLsbD k) := by
  simp [lowByte]

theorem highByte_getLsbD (v : Half) (k : Nat) :
    (highByte v).getLsbD k = (decide (k < 8) && v.getLsbD (8 + k)) := by
  simp [highByte]

/-- A value is its two bytes. -/
theorem joinBytes_self (v : Half) : joinBytes (highByte v) (lowByte v) = v := by
  apply BitVec.eq_of_getLsbD_eq
  intro k hk
  rw [joinBytes_getLsbD, lowByte_getLsbD, highByte_getLsbD]
  split
  · next h => simp [h]
  · next h => simp [show 8 + (k - 8) = k by omega, show k - 8 < 8 by omega]

@[simp] theorem lowByte_joinBytes (high low : Byte) : lowByte (joinBytes high low) = low := by
  apply BitVec.eq_of_getLsbD_eq
  intro k hk
  rw [lowByte_getLsbD, joinBytes_getLsbD]; simp only [hk]; simp

@[simp] theorem highByte_joinBytes (high low : Byte) : highByte (joinBytes high low) = high := by
  apply BitVec.eq_of_getLsbD_eq
  intro k hk
  rw [highByte_getLsbD, joinBytes_getLsbD]; simp [show ¬ 8 + k < 8 by omega, show k < 8 from hk]

theorem segtab?_eq_some_iff (p : Params) (d : BitVec 4) (v : Byte) :
    segtab? p d = some v ↔ ∃ h : d.toNat < 10, p.segtab[d.toNat] = v := by
  simp [segtab?, Vector.getElem?_eq_some_iff]

theorem segtab?_eq_none_iff (p : Params) (d : BitVec 4) : segtab? p d = none ↔ 9 < d.toNat := by
  simp only [segtab?, Vector.getElem?_eq_none_iff]; omega

theorem digitRefusal?_eq_none_iff (d : BitVec 4) : digitRefusal? d = none ↔ legalDigit d = true := by
  simp [digitRefusal?, legalDigit]

theorem positionRefusal?_eq_none_iff (p : BitVec 3) : positionRefusal? p = none ↔ legalPosition p = true := by
  simp only [positionRefusal?, legalPosition]
  split <;> simp <;> omega

theorem digitRefusal?_eq_some {d : BitVec 4} {r : Refusal} (h : digitRefusal? d = some r) :
    r = .digitOutOfRange ∧ legalDigit d = false := by
  unfold digitRefusal? at h
  split at h
  · next hd => cases h; exact ⟨rfl, by simpa [legalDigit] using hd⟩
  · cases h

theorem positionRefusal?_eq_some {p : BitVec 3} {r : Refusal} (h : positionRefusal? p = some r) :
    r = .positionOutOfRange ∧ legalPosition p = false := by
  unfold positionRefusal? at h
  split at h
  · next hp => cases h; exact ⟨rfl, by simp [legalPosition]; omega⟩
  · cases h

/-- Every position pattern asserts one line at most. -/
theorem positionPattern_lines (p : BitVec 3) (h : legalPosition p = true) :
    positionPattern p = 0b1110 ∨ positionPattern p = 0b1101 ∨ positionPattern p = 0b1011 ∨
      positionPattern p = 0b0111 := by
  revert h; revert p; decide

theorem selectedPreset_cases (c : BitVec 3) :
    selectedPreset c = some .fast ∨ selectedPreset c = some .slow ∨ selectedPreset c = some .off ∨
      selectedPreset c = none := by
  revert c; decide

/-- The loop of DISPNUM queues SHOW_DIGITs only, all with legal operands. -/
theorem digitLoop_legal (rounds u pos : Nat) (hpos : 1 ≤ pos) :
    ∀ i ∈ digitLoop rounds u pos, ∃ d p, i = .showDigit d p ∧ legalDigit d = true ∧ legalPosition p = true := by
  induction rounds generalizing u pos with
  | zero => simp [digitLoop]
  | succ n ih =>
    intro i hi
    unfold digitLoop at hi
    split at hi
    · next h =>
      rcases List.mem_cons.1 hi with rfl | hi
      · refine ⟨_, _, rfl, ?_, ?_⟩
        · have : u % 10 < 10 := Nat.mod_lt _ (by decide)
          simp [legalDigit, Config.digitMax]; omega
        · have := h.2
          simp [legalPosition, Config.nPos] at this ⊢; omega
      · exact ih _ _ (by omega) i hi
    · simp at hi

theorem digitStrobes_legal (v : Half) :
    ∀ i ∈ digitStrobes v, ∃ d p, i = .showDigit d p ∧ legalDigit d = true ∧ legalPosition p = true := by
  intro i hi
  unfold digitStrobes at hi
  simp only at hi
  split at hi
  · simp at hi; exact ⟨0, 1, hi, by decide, by decide⟩
  · exact digitLoop_legal _ _ _ (by decide) i hi

end Machine

end Sys2Proof
end

