-- ==== Sys2Proof/Laws/Exec.lean ====
section
/-! SUPPORT. What the meanings leave alone, one lemma per group of operations: the commands the sequencer
performs never touch what belongs to the handler, the environment or the run. -/

namespace Sys2Proof.Machine

theorem State.pushFront_uq (s : State) (l : List Instr) : (s.pushFront l).uq = l ++ s.uq := rfl

/-- A command that answers a next state leaves the inputs, `EDGE_STATE`, `PULSE_TICKS`, `IPEND`, `PCIDX`, the
parameters, the program and the run alone, and only puts operations in front of `UQ`, none a stimulus word,
none a timer command. -/
theorem exec_command_frame {i : Instr} {s t : State} (hi : i.isStimulus = false) (h : exec i s = .next t) :
    (t.echo = s.echo ∧ t.csel = s.csel ∧ t.rst = s.rst ∧ t.edgeState = s.edgeState ∧
      t.pulseTicks = s.pulseTicks ∧ t.ipend = s.ipend ∧ t.pcidx = s.pcidx ∧ t.params = s.params ∧
      t.program = s.program ∧ t.schedule = s.schedule ∧ t.budget = s.budget) ∧
    ∃ l, t.uq = l ++ s.uq ∧ ∀ j ∈ l, j.isStimulus = false ∧ j.writesTimer = false := by
  cases i with
  | evEcho | evTick | evCsel | evRun | evReset => simp [Instr.isStimulus, Instr.kind] at hi
  | enc d =>
    simp only [exec, execEnc] at h
    split at h
    · cases h; exact ⟨by simp, [], by simp, by simp⟩
    · cases h
  | posSel p =>
    simp only [exec, execPosSel] at h
    split at h
    · cases h
    · cases h; exact ⟨by simp, [], by simp, by simp⟩
  | showDigit d p =>
    simp only [exec, execShowDigit] at h
    split at h
    · cases h
    · split at h
      · cases h
      · cases h
        exact ⟨by simp, _, State.pushFront_uq _ _, by simp [Instr.isStimulus, Instr.kind, Instr.writesTimer]⟩
  | dispnum v =>
    simp only [exec, execDispnum] at h; cases h
    refine ⟨by simp, digitStrobes v, by simp, fun j hj => ?_⟩
    obtain ⟨d, p, rfl, -, -⟩ := digitStrobes_legal v j hj
    simp [Instr.isStimulus, Instr.kind, Instr.writesTimer]
  | miCheck =>
    simp only [exec, execMiCheck] at h; cases h
    refine ⟨by simp, _, State.pushFront_uq _ _, ?_⟩
    split <;> simp [Instr.isStimulus, Instr.kind, Instr.writesTimer]
  | snapshot | trigger | mainIter =>
    simp only [exec, execSnapshot, execTrigger, execMainIter] at h; cases h
    exact ⟨by simp, _, State.pushFront_uq _ _, by simp [Instr.isStimulus, Instr.kind, Instr.writesTimer]⟩
  | treset | tstart | tstop | tread | irqDis | irqEn | rdptl | rdpth | posBlank | segOff | segSet | delayUs
  | delayMs | trigHi | trigLo | selcad | conv | iterInc | iterClr =>
    simp only [exec, execTreset, execTstart, execTstop, execTread, execIrqDis, execIrqEn, execRdptl, execRdpth,
      execPosBlank, execSegOff, execSegSet, execDelayUs, execDelayMs, execTrigHi, execTrigLo, execSelcad,
      execConv, execIterInc, execIterClr, State.timerReset, State.timerStart, State.timerStop] at h
    cases h
    exact ⟨by simp, [], by simp, by simp⟩

/-- A command that is no TRESET, TSTART or TSTOP leaves the counter and its run bit alone. -/
theorem exec_command_timer {i : Instr} {s t : State} (hi : i.isStimulus = false) (hw : i.writesTimer = false)
    (h : exec i s = .next t) : t.cnt = s.cnt ∧ t.run = s.run := by
  cases i with
  | evEcho | evTick | evCsel | evRun | evReset => simp [Instr.isStimulus, Instr.kind] at hi
  | treset | tstart | tstop => simp [Instr.writesTimer] at hw
  | enc d =>
    simp only [exec, execEnc] at h
    split at h <;> cases h
    simp
  | posSel p =>
    simp only [exec, execPosSel] at h
    split at h <;> cases h
    simp
  | showDigit d p =>
    simp only [exec, execShowDigit] at h
    split at h
    · cases h
    · split at h <;> cases h
      simp
  | dispnum | miCheck | snapshot | trigger | mainIter | tread | irqDis | irqEn | rdptl | rdpth | posBlank
  | segOff | segSet | delayUs | delayMs | trigHi | trigLo | selcad | conv | iterInc | iterClr =>
    simp only [exec, execTread, execIrqDis, execIrqEn, execRdptl, execRdpth, execDispnum, execMiCheck,
      execSnapshot, execTrigger, execMainIter, execPosBlank, execSegOff, execSegSet, execDelayUs, execDelayMs,
      execTrigHi, execTrigLo, execSelcad, execConv, execIterInc, execIterClr] at h
    cases h
    simp

/-- The five stimulus words, each with the state it answers. -/
theorem exec_stimulus_cases {i : Instr} {s t : State} (hi : i.isStimulus = true) (h : exec i s = .next t) :
    (∃ l, i = .evEcho l ∧ t = s.senseEcho l) ∨ (∃ n, i = .evTick n ∧ t = s.ticks n.toNat) ∨
    (∃ c, i = .evCsel c ∧ t = s.writeCsel c) ∨ (∃ n, i = .evRun n ∧ t = s.writeBudget (runBudget n)) ∨
    (i = .evReset ∧ t = s.resetStep) := by
  cases i with
  | evEcho l => cases h; exact .inl ⟨l, rfl, rfl⟩
  | evTick n => cases h; exact .inr (.inl ⟨n, rfl, rfl⟩)
  | evCsel c => cases h; exact .inr (.inr (.inl ⟨c, rfl, rfl⟩))
  | evRun n => cases h; exact .inr (.inr (.inr (.inl ⟨n, rfl, rfl⟩)))
  | evReset => cases h; exact .inr (.inr (.inr (.inr ⟨rfl, rfl⟩)))
  | _ => simp [Instr.isStimulus, Instr.kind] at hi

end Sys2Proof.Machine
end

