-- ==== Sys2Proof/Laws/PerInstr.lean ====
section
/-! SUPPORT. Families of statements about the instruction as data, one lemma per constructor (LAWS.json).
RoundTrip: the word of an encodable operation decodes to that operation, every operand at every value. -/

namespace Sys2Proof.Laws.RoundTrip

/-- Decoding the word of an encodable operation gives the operation back. -/
def Statement (i : Instr) : Prop := i.encodable = true → decode (encode i) = .ok i

theorem treset : Statement .treset := fun _ => rfl
theorem tstart : Statement .tstart := fun _ => rfl
theorem tstop : Statement .tstop := fun _ => rfl
theorem tread : Statement .tread := fun _ => rfl
theorem irqDis : Statement .irqDis := fun _ => rfl
theorem irqEn : Statement .irqEn := fun _ => rfl
theorem rdptl : Statement .rdptl := fun _ => rfl
theorem rdpth : Statement .rdpth := fun _ => rfl
theorem snapshot : Statement .snapshot := fun _ => rfl
theorem posBlank : Statement .posBlank := fun _ => rfl
theorem segOff : Statement .segOff := fun _ => rfl
theorem segSet : Statement .segSet := fun _ => rfl
theorem trigHi : Statement .trigHi := fun _ => rfl
theorem trigLo : Statement .trigLo := fun _ => rfl
theorem trigger : Statement .trigger := fun _ => rfl
theorem selcad : Statement .selcad := fun _ => rfl
theorem conv : Statement .conv := fun _ => rfl
theorem iterInc : Statement .iterInc := fun _ => rfl
theorem iterClr : Statement .iterClr := fun _ => rfl
theorem miCheck : Statement .miCheck := fun _ => rfl
theorem mainIter : Statement .mainIter := fun _ => rfl
theorem evReset : Statement .evReset := fun _ => rfl

theorem enc (d : BitVec 4) : Statement (.enc d) := fun _ =>
  decode_of_row (fmt := .D) (by simp [encode, row]) (by simpa only [encode, opcode_packWord] using mask_digit _ d)

theorem posSel (p : BitVec 3) : Statement (.posSel p) := fun _ =>
  decode_of_row (fmt := .P) (by simp [encode, row]) (by simpa only [encode, opcode_packWord] using mask_position _ p)

theorem showDigit (d : BitVec 4) (p : BitVec 3) : Statement (.showDigit d p) := fun _ =>
  decode_of_row (fmt := .DP) (by simp [encode, row]) (by simpa only [encode, opcode_packWord] using mask_digitPosition _ d p)

theorem dispnum (v : Half) : Statement (.dispnum v) := fun _ =>
  decode_of_row (fmt := .I) (by simp [encode, row]) (by simpa only [encode, opcode_packWord] using mask_imm _ v)

theorem delayUs (n : Nat) : Statement (.delayUs n) := fun h =>
  have hn : n < 65536 := by simpa [Instr.encodable] using h
  decode_of_row (fmt := .I) (by simp [encode, row, Nat.mod_eq_of_lt hn]) (by simpa only [encode, opcode_packWord] using mask_imm _ _)

theorem delayMs (n : Nat) : Statement (.delayMs n) := fun h =>
  have hn : n < 65536 := by simpa [Instr.encodable] using h
  decode_of_row (fmt := .I) (by simp [encode, row, Nat.mod_eq_of_lt hn]) (by simpa only [encode, opcode_packWord] using mask_imm _ _)

theorem evEcho (l : Bool) : Statement (.evEcho l) := fun _ =>
  decode_of_row (fmt := .L) (by simp [encode, row]) (by simpa only [encode, opcode_packWord] using mask_level _ l)

theorem evTick (n : Half) : Statement (.evTick n) := fun _ =>
  decode_of_row (fmt := .I) (by simp [encode, row]) (by simpa only [encode, opcode_packWord] using mask_imm _ n)

theorem evCsel (c : BitVec 3) : Statement (.evCsel c) := fun _ =>
  decode_of_row (fmt := .C) (by simp [encode, row]) (by simpa only [encode, opcode_packWord] using mask_lines _ c)

theorem evRun (n : Half) : Statement (.evRun n) := fun _ =>
  decode_of_row (fmt := .I) (by simp [encode, row]) (by simpa only [encode, opcode_packWord] using mask_imm _ n)

end Sys2Proof.Laws.RoundTrip
end

