-- ==== Sys2Proof/Laws/Step.lean ====
section
/-! SUPPORT. What one step can do, said once: whose turn it is, and the inversion lemma of `step`. -/

namespace Sys2Proof.Machine

theorem State.turn_reset {s : State} (h : s.rst = true) : s.turn = .reset := by simp [State.turn, h]

theorem State.turn_irq {s : State} (hr : s.rst = false) (h : s.irqEnabled = true) : s.turn = .irq := by
  simp [State.turn, hr, h]

/-- An EV_RUN in progress gives the turn to a ready sequencer. -/
theorem State.turn_seq {s : State} (hr : s.rst = false) (hi : s.irqEnabled = false)
    (hb : s.budget.active = true) (hs : s.seqReady = true) : s.turn = .seq := by
  simp [State.turn, hr, hi, hb, hs]

/-- With no EV_RUN that can go on, the next schedule item is taken. -/
theorem State.turn_item {s : State} {w : Word} {rest : List Word} (hr : s.rst = false)
    (hi : s.irqEnabled = false) (hb : (s.budget.active && s.seqReady) = false) (hs : s.schedule = w :: rest) :
    s.turn = .item w rest := by
  simp [State.turn, hr, hi, hb, hs]

/-- In a quiet state the sequencer moves when it is ready and the clock otherwise. -/
theorem State.turn_quiet {s : State} (h : s.quiet) : s.turn = if s.seqReady then .seq else .clk := by
  obtain ⟨hr, hi, hs, hb⟩ := h
  simp [State.turn, State.irqEnabled, hr, hi, hs, hb, Budget.active]

/-- Whose turn it is, read backwards. -/
theorem State.turn_cases (s : State) :
    (s.turn = .reset ∧ s.rst = true) ∨
    (s.rst = false ∧
      ((s.turn = .irq ∧ s.irqEnabled = true) ∨
       (s.irqEnabled = false ∧
        ((s.turn = .seq ∧ s.seqReady = true) ∨
         (∃ w rest, s.turn = .item w rest ∧ s.schedule = w :: rest) ∨
         (s.turn = .clk ∧ s.schedule = [] ∧ s.seqReady = false))))) := by
  unfold State.turn
  by_cases hr : s.rst = true
  · simp [hr]
  · by_cases hi : s.irqEnabled = true
    · simp [hr, hi]
    · by_cases hq : s.seqReady = true
      · by_cases hb : s.budget.active = true
        · simp [hr, hi, hq, hb]
        · cases hs : s.schedule <;> simp [hr, hi, hq, hb]
      · cases hs : s.schedule <;> simp [hr, hi, hq]

/-- Everything one step can do when it answers a next state: reset, the handler, a fetch, an operation off
`UQ`, a stimulus word off the schedule, a tick. -/
theorem step_cases {s t : State} (h : step s = .next t) :
    (s.turn = .reset ∧ t = ({ s with rst := false } : State).resetStep) ∨
    (s.turn = .irq ∧ t = s.takeInterrupt) ∨
    (s.turn = .seq ∧ s.uq = [] ∧ s.dly = 0 ∧ ∃ w i, s.program.word? s.pcidx = some w ∧ decode w = .ok i ∧
      i.isStimulus = false ∧ t = { s with budget := s.budget.spend, uq := [i], pcidx := s.pcidx + 1 }) ∨
    (s.turn = .seq ∧ s.dly = 0 ∧ ∃ i rest, s.uq = i :: rest ∧ i.isStimulus = false ∧
      exec i { s with budget := s.budget.spend, uq := rest } = .next t) ∨
    (∃ w rest i, s.turn = .item w rest ∧ s.schedule = w :: rest ∧ decode w = .ok i ∧ i.isStimulus = true ∧
      exec i { s with schedule := rest, budget := .idle } = .next t) ∨
    (s.turn = .clk ∧ s.schedule = [] ∧ s.seqReady = false ∧
      t = ({ s with budget := .idle } : State).tick) := by
  rcases s.turn_cases with ⟨ht, -⟩ | ⟨-, ⟨ht, -⟩ | ⟨-, ⟨ht, hq⟩ | ⟨w, rest, ht, hs⟩ | ⟨ht, hs, hq⟩⟩⟩
  · left
    simp only [step, takeTurn, ht, exec, execEvReset] at h
    cases h; exact ⟨ht, rfl⟩
  · right; left
    simp only [step, takeTurn, ht] at h
    cases h; exact ⟨ht, rfl⟩
  · right; right
    simp only [step, takeTurn, ht, seqStep] at h
    have hd : s.dly = 0 := by simp [State.seqReady] at hq; exact hq.1
    cases hu : s.uq with
    | nil =>
      left
      have hw : (s.program.word? s.pcidx).isSome = true := by simpa [State.seqReady, hu, hd] using hq
      obtain ⟨w, hw⟩ := Option.isSome_iff_exists.1 hw
      simp only [hu, hw, fetchWord] at h
      split at h
      · cases h
      · next i hdec =>
        split at h
        · cases h
        · next hst => cases h; exact ⟨ht, rfl, hd, w, i, hw, hdec, by simpa using hst, rfl⟩
    | cons i rest =>
      right; left
      simp only [hu] at h
      split at h
      · cases h
      · next hst => exact ⟨ht, hd, i, rest, rfl, by simpa using hst, h⟩
  · right; right; right; right; left
    simp only [step, takeTurn, ht, scheduleStep] at h
    split at h
    · cases h
    · next i hdec =>
      split at h
      · next hst => exact ⟨w, rest, i, ht, hs, hdec, hst, h⟩
      · cases h
  · right; right; right; right; right
    simp only [step, takeTurn, ht] at h
    cases h; exact ⟨ht, hs, hq, rfl⟩

/-- Seen from the main context a step that is no reset either waits (the handler, a stimulus word, a tick: it
touches nothing of the main context, and `DLY` goes down by the ticks taken), or fetches, or takes the head
off `UQ`. -/
theorem step_waits_or_moves {s t : State} (h : step s = .next t) (hr : s.takesReset = false) :
    (s.turn ≠ .seq ∧ (t.uq = s.uq ∧ t.pcidx = s.pcidx ∧ t.trig = s.trig ∧ t.pos = s.pos ∧ t.seg = s.seg ∧
      t.pat = s.pat ∧ t.snap = s.snap ∧ t.distanceCm = s.distanceCm ∧ t.cadence = s.cadence ∧
      t.iter = s.iter ∧ t.ie = s.ie ∧ t.params = s.params ∧ t.program = s.program ∧
      t.dly = s.dly - s.ticksTaken) ∧ (s.ie = false → t.pulseTicks = s.pulseTicks)) ∨
    (s.turn = .seq ∧ s.dly = 0 ∧ s.uq = [] ∧ ∃ w i, s.program.word? s.pcidx = some w ∧ decode w = .ok i ∧
      i.isStimulus = false ∧ t = { s with budget := s.budget.spend, uq := [i], pcidx := s.pcidx + 1 }) ∨
    (s.turn = .seq ∧ s.dly = 0 ∧ ∃ i rest, s.uq = i :: rest ∧ i.isStimulus = false ∧
      exec i { s with budget := s.budget.spend, uq := rest } = .next t) := by
  rcases step_cases h with ⟨ht, -⟩ | ⟨ht, rfl⟩ | ⟨ht, hu, hd, hw⟩ | ⟨ht, hd, hm⟩ |
    ⟨w, rest, i, ht, hs, hdec, hst, he⟩ | ⟨ht, -, -, rfl⟩
  · simp [State.takesReset, ht] at hr
  · have hie : s.ie = true := by
      rcases s.turn_cases with ⟨h', -⟩ | ⟨-, ⟨-, h'⟩ | ⟨-, ⟨h', -⟩ | ⟨_, _, h', -⟩ | ⟨h', -⟩⟩⟩
      · simp [ht] at h'
      · simp only [State.irqEnabled, Bool.and_eq_true] at h'; exact h'.2
      · simp [ht] at h'
      · simp [ht] at h'
      · simp [ht] at h'
    exact .inl ⟨by simp [ht], by simp [State.takeInterrupt_eq, State.ticksTaken, ht], by simp [hie]⟩
  · exact .inr (.inl ⟨ht, hd, hu, hw⟩)
  · exact .inr (.inr ⟨ht, hd, hm⟩)
  · rcases exec_stimulus_cases hst he with ⟨l, rfl, rfl⟩ | ⟨n, rfl, rfl⟩ | ⟨c, rfl, rfl⟩ | ⟨n, rfl, rfl⟩ |
      ⟨rfl, rfl⟩
    · exact .inl (by simp [State.senseEcho_eq, State.ticksTaken, ht, hdec])
    · exact .inl (by simp [State.ticks_eq, State.ticksTaken, ht, hdec])
    · exact .inl (by simp [State.ticksTaken, ht, hdec])
    · exact .inl (by simp [State.ticksTaken, ht, hdec])
    · simp [State.takesReset, ht, hdec] at hr
  · exact .inl (by simp [State.tick_eq, State.ticksTaken, ht])

/-- Only a sequencer step with POS_SEL at the head strobes. -/
theorem State.strobe?_eq_none {s : State} (h : s.turn = .seq → ∀ p rest, s.uq ≠ .posSel p :: rest) :
    s.strobe? = none := by
  unfold State.strobe?
  split
  · next p rest ht hu => exact absurd hu (h ht p rest)
  · rfl

/-- A pattern that is an entry of the table shows its digit, when the entries are pairwise different. -/
theorem State.shownDigit?_eq {s : State} (hw : s.params.wf) {d : BitVec 4}
    (h : segtab? s.params d = some s.seg) : s.shownDigit? = some d.toNat := by
  obtain ⟨hd, hv⟩ := (segtab?_eq_some_iff _ _ _).1 h
  rw [State.shownDigit?, List.find?_range_eq_some]
  refine ⟨by simp [hd, hv], by simp [hd], ?_⟩
  intro j hj
  have hj' : j < 10 := by omega
  simp only [hj', Vector.getElem?_eq_getElem, ← hv]
  simp only [Bool.not_eq_true', beq_eq_false_iff_ne]
  intro he
  have := Fin.mk.inj (hw.1 ⟨j, hj'⟩ ⟨d.toNat, hd⟩ (Option.some.inj he))
  omega

end Sys2Proof.Machine
end

