-- ==== Sys2Proof/Tests/Slice0.lean ====
section
/-! SUPPORT. The model's own tests, and for each statement with hypotheses a witness that meets them.
Expected values come from the spec: the opcode table of `30_encoding.md` R83, the vectors of
`95_test_vectors.md` (V-…) and the rules named. A witness is called after the statement it belongs to. -/

open Sys2Proof Sys2Proof.Machine

namespace Sys2Proof.Tests

/-! ## Small states -/

/-- The reset state with this queue: the sequencer's turn. -/
def queued (uq : List Instr) : State := { State.reset with uq := uq }

/-- The reset state with this word as the whole program: a fetch is next. -/
def loaded (w : Word) : State := { State.reset with program := ⟨[some w], .repeating []⟩ }

/-- The reset state with this schedule. -/
def scheduled (l : List Word) : State := { State.reset with schedule := l }

/-- Ready to serve an edge: pending and enabled. -/
def edge (e : EdgeState) (pin : Bool) : State :=
  { State.reset with
    ipend := true, ie := true, edgeState := e, echo := pin, cnt := 300, pulseTicks := 580, run := e == .timing }

/-- What `f` reads in the next state, `none` after a refusal. -/
def reads {α : Type} (f : State → α) : Host.Outcome State Fault Refusal → Option α
  | .next t => some (f t)
  | .fault _ | .refused _ => none

/-- The reason of a refusal. -/
def reason? : Host.Outcome State Fault Refusal → Option Refusal
  | .refused r => some r
  | .next _ | .fault _ => none

/-! ## Well-formedness: each check refuses an ill-formed term -/

theorem test_wf_delay_us_immediate : (Instr.delayUs 65536).encodable = false := by decide
theorem test_wf_delay_ms_immediate : (Instr.delayMs 65536).encodable = false := by decide
theorem test_wf_digit : (Instr.enc 10).wellFormed = false := by decide
theorem test_wf_position_zero : (Instr.posSel 0).wellFormed = false := by decide
theorem test_wf_position_five : (Instr.posSel 5).wellFormed = false := by decide
theorem test_wf_show_digit : (Instr.showDigit 10 1).wellFormed = false := by decide
theorem test_wf_show_position : (Instr.showDigit 1 0).wellFormed = false := by decide
theorem test_wf_accepts : (Instr.showDigit 9 4).wellFormed = true ∧ (Instr.delayMs 65535).wellFormed = true := by
  decide

/-! ## Decoding: every row of R83, words written out from R80 to R83 -/

theorem test_decode_timing : decode 0x01000000 = .ok .treset ∧ decode 0x02000000 = .ok .tstart ∧
    decode 0x03000000 = .ok .tstop ∧ decode 0x04000000 = .ok .tread := ⟨rfl, rfl, rfl, rfl⟩

theorem test_decode_critical_section : decode 0x10000000 = .ok .irqDis ∧ decode 0x11000000 = .ok .irqEn ∧
    decode 0x12000000 = .ok .rdptl ∧ decode 0x13000000 = .ok .rdpth ∧ decode 0x14000000 = .ok .snapshot :=
  ⟨rfl, rfl, rfl, rfl, rfl⟩

/-- V-E3, V-E6, V-E9, V-E12, V-E15, V-D35. -/
theorem test_decode_display : decode 0x20000009 = .ok (.enc 9) ∧ decode 0x21000000 = .ok .posBlank ∧
    decode 0x22000000 = .ok .segOff ∧ decode 0x23000000 = .ok .segSet ∧ decode 0x24000040 = .ok (.posSel 4) ∧
    decode 0x28000037 = .ok (.showDigit 7 3) ∧ decode 0x2900270F = .ok (.dispnum 9999) ∧
    decode 0x3000000A = .ok (.delayUs 10) ∧ decode 0x31000002 = .ok (.delayMs 2) :=
  ⟨rfl, rfl, rfl, rfl, rfl, rfl, rfl, rfl, rfl⟩

theorem test_decode_host : decode 0x40000000 = .ok .trigHi ∧ decode 0x41000000 = .ok .trigLo ∧
    decode 0x42000000 = .ok .trigger ∧ decode 0x43000000 = .ok .selcad ∧ decode 0x44000000 = .ok .conv ∧
    decode 0x45000000 = .ok .iterInc ∧ decode 0x46000000 = .ok .iterClr ∧ decode 0x47000000 = .ok .miCheck ∧
    decode 0x4F000000 = .ok .mainIter := ⟨rfl, rfl, rfl, rfl, rfl, rfl, rfl, rfl, rfl⟩

/-- V-E18, V-E20, V-E21, V-E22, V-E23. -/
theorem test_decode_stimulus : decode 0xE0000001 = .ok (.evEcho true) ∧ decode 0xE1000244 = .ok (.evTick 580) ∧
    decode 0xE2000006 = .ok (.evCsel 0b110) ∧ decode 0xE3000002 = .ok (.evRun 2) ∧
    decode 0xEF000000 = .ok .evReset := ⟨rfl, rfl, rfl, rfl, rfl⟩

/-- V-E5, V-E8, V-E10, V-E14, V-E17, V-E19: a must-be-zero bit set. -/
theorem test_decode_must_be_zero : [(0x20000010 : Word), 0x24000041, 0x28000080, 0x29010000, 0x4F000001,
    0xE0000002, 0xE2000008].map decode = List.replicate 7 (.error .nonzeroReservedBit) := rfl

/-- V-E24 to V-E27: opcodes without a row. -/
theorem test_decode_reserved_opcode : [(0x00000000 : Word), 0xFFFFFFFF, 0x05000000, 0x48000000].map decode =
    List.replicate 4 (.error .reservedOpcode) := rfl

theorem test_table_word : decodeTableWord 32 0x28000037 = some (.showDigit 7 3) ∧
    decodeTableWord 40 0x28000037 = none := ⟨rfl, rfl⟩

/-! ## One operation on a small state -/

/-- V-C4, V-C5c: `RUN` is left alone. -/
theorem test_treset : reads (fun t => (t.cnt, t.run)) (exec .treset { State.reset with cnt := 7, run := true }) =
    some (0, true) := by decide

/-- V-C1. -/
theorem test_tstart : reads (fun t => (t.run, t.cnt)) (exec .tstart State.reset) = some (true, 0) := by decide

/-- V-C3. -/
theorem test_tstop : reads (fun t => (t.run, t.cnt)) (exec .tstop { State.reset with cnt := 7, run := true }) =
    some (false, 7) := by decide

/-- V-C2. -/
theorem test_tread : reads State.snap (exec .tread { State.reset with cnt := 7 }) = some 7 := by decide

theorem test_irq_dis : reads State.ie (exec .irqDis { State.reset with ie := true }) = some false := by decide

theorem test_irq_en : reads State.ie (exec .irqEn State.reset) = some true := by decide

/-- V-C22. -/
theorem test_rdptl : reads State.snap (exec .rdptl { State.reset with pulseTicks := 0x0244 }) = some 0x0044 := by
  decide

/-- V-C24: RDPTH alone leaves the low byte. -/
theorem test_rdpth : reads State.snap (exec .rdpth { State.reset with pulseTicks := 0x0244, snap := 0xFFFF }) =
    some 0x02FF := by decide

/-- R147: the list goes in front of what was queued. -/
theorem test_snapshot : reads State.uq (exec .snapshot (queued [.conv])) =
    some [.irqDis, .rdptl, .rdpth, .irqEn, .conv] := by decide

/-- V-D1 to V-D10. -/
theorem test_enc : (List.range 10).map (fun d => reads State.pat (exec (.enc (BitVec.ofNat 4 d)) State.reset)) =
    [0xC0, 0xF9, 0xA4, 0xB0, 0x99, 0x92, 0x82, 0xF8, 0x80, 0x90].map some := by decide

/-- V-D11, V-D12. -/
theorem test_enc_refused : reason? (exec (.enc 10) State.reset) = some .digitOutOfRange ∧
    reason? (exec (.enc 15) State.reset) = some .digitOutOfRange := by decide

/-- V-D13. -/
theorem test_pos_blank : reads State.pos (exec .posBlank { State.reset with pos := 0b1101 }) = some 0b1111 := by
  decide

/-- V-D14. -/
theorem test_seg_off : reads (fun t => (t.seg, t.pat))
    (exec .segOff { State.reset with seg := 0xC0, pat := 0xC0 }) = some (0xFF, 0xC0) := by decide

/-- V-D15. -/
theorem test_seg_set : reads State.seg (exec .segSet { State.reset with pat := 0xA4 }) = some 0xA4 := by decide

/-- V-D16 to V-D19: the old line is released in the same step. -/
theorem test_pos_sel : [1, 2, 3, 4].map (fun p => reads State.pos (exec (.posSel p)
    { State.reset with pos := 0b1110 })) = [some 0b1110, some 0b1101, some 0b1011, some 0b0111] := by decide

/-- V-D19a to V-D19c. -/
theorem test_pos_sel_refused : [5, 0, 7].map (fun p => reason? (exec (.posSel p) State.reset)) =
    List.replicate 3 (some .positionOutOfRange) := by decide

/-- V-D19d, step 2. -/
theorem test_show_digit : reads State.uq (exec (.showDigit 7 3) State.reset) =
    some [.posBlank, .segOff, .enc 7, .segSet, .posSel 3, .delayMs 1] := by decide

/-- V-E11, V-D19e to V-D19g: the digit test comes first. -/
theorem test_show_digit_refused : reason? (exec (.showDigit 10 5) State.reset) = some .digitOutOfRange ∧
    reason? (exec (.showDigit 10 3) State.reset) = some .digitOutOfRange ∧
    reason? (exec (.showDigit 7 5) State.reset) = some .positionOutOfRange ∧
    reason? (exec (.showDigit 7 0) State.reset) = some .positionOutOfRange := by decide

/-- V-D20, V-D24, V-D25, V-D27: one SHOW_DIGIT per digit, inner zeros shown, leading ones not. -/
theorem test_dispnum : digitStrobes 0 = [.showDigit 0 1] ∧
    digitStrobes 100 = [.showDigit 0 1, .showDigit 0 2, .showDigit 1 3] ∧
    digitStrobes 907 = [.showDigit 7 1, .showDigit 0 2, .showDigit 9 3] ∧
    digitStrobes 1234 = [.showDigit 4 1, .showDigit 3 2, .showDigit 2 3, .showDigit 1 4] := by decide

/-- V-D28 to V-D31: the clamp. -/
theorem test_dispnum_clamp : [9999, 10000, 12345, 65535].map (fun v =>
    reads State.uq (exec (.dispnum v) State.reset)) =
    List.replicate 4 (some [.showDigit 9 1, .showDigit 9 2, .showDigit 9 3, .showDigit 9 4]) := by decide

/-- V-D33, V-D36. -/
theorem test_delay_us : reads State.dly (exec (.delayUs 10) State.reset) = some 10 ∧
    reads State.dly (exec (.delayUs 10) { State.reset with params := { Config.params with ticksPerUs := 8, ticksPerUs_pos := by decide } }) =
      some 80 := by decide

/-- V-D35, V-D37. -/
theorem test_delay_ms : reads State.dly (exec (.delayMs 2) State.reset) = some 2000 ∧
    reads State.dly (exec (.delayMs 65535) { State.reset with params := { Config.params with ticksPerUs := 16, ticksPerUs_pos := by decide } }) =
      some 1048560000 := ⟨rfl, rfl⟩

theorem test_trig_hi : reads State.trig (exec .trigHi State.reset) = some true := by decide

theorem test_trig_lo : reads State.trig (exec .trigLo { State.reset with trig := true }) = some false := by decide

/-- R172. -/
theorem test_trigger : reads State.uq (exec .trigger (queued [.iterClr])) =
    some [.trigHi, .delayUs 10, .trigLo, .iterClr] := by decide

/-- V-H1 to V-H8, from `CADENCE = 1000`. -/
theorem test_selcad : [0b000, 0b001, 0b010, 0b011, 0b100, 0b101, 0b110, 0b111].map (fun c =>
    reads State.cadence (exec .selcad { State.reset with csel := c })) =
    [10, 1000, 10, 65535, 10, 1000, 10, 1000].map some := by decide

/-- V-H8: no line low keeps any cadence. -/
theorem test_selcad_none : reads State.cadence (exec .selcad { State.reset with cadence := 65535 }) =
    some 65535 := by decide

/-- V-H10 to V-H19. -/
theorem test_conv : [0, 57, 58, 59, 115, 116, 580, 1160, 9999, 65535].map (fun v =>
    reads State.distanceCm (exec .conv { State.reset with snap := v })) =
    [0, 0, 1, 1, 1, 2, 10, 20, 172, 1129].map some := by decide

/-- V-H20, V-H21. -/
theorem test_iter_inc : reads State.iter (exec .iterInc { State.reset with iter := 9 }) = some 10 ∧
    reads State.iter (exec .iterInc { State.reset with iter := 65535 }) = some 0 := by decide

/-- V-H22. -/
theorem test_iter_clr : reads State.iter (exec .iterClr { State.reset with iter := 10 }) = some 0 := by decide

/-- V-H28, V-H29. -/
theorem test_mi_check : reads State.uq (exec .miCheck { State.reset with iter := 1000, cadence := 1000 }) =
    some [.snapshot, .conv, .trigger, .iterClr] ∧
    reads State.uq (exec .miCheck { State.reset with iter := 65535, cadence := 65535 }) = some [] := by decide

/-- V-H23 to V-H27, V-H29a, V-H29b. -/
theorem test_mi_check_condition : cadenceReached 9 10 = false ∧ cadenceReached 10 10 = true ∧
    cadenceReached 11 10 = true ∧ cadenceReached 500 10 = true ∧ cadenceReached 999 1000 = false ∧
    cadenceReached 0 65535 = false ∧ cadenceReached 65535 1000 = true := by decide

/-- R178: the operand is the distance at the expansion. -/
theorem test_main_iter : reads State.uq (exec .mainIter { State.reset with distanceCm := 10 }) =
    some [.dispnum 10, .iterInc, .selcad, .miCheck] := by decide

/-- V-C16, V-C18. -/
theorem test_ev_echo : reads (fun t => (t.echo, t.ipend)) (exec (.evEcho true) State.reset) = some (true, false) ∧
    reads (fun t => (t.echo, t.ipend, t.run)) (exec (.evEcho false) State.reset) = some (false, true, false) := by
  decide

/-- V-C13's second item, V-D38: `CNT` wraps, `DLY` stops at 0. -/
theorem test_ev_tick : reads (fun t => (t.cnt, t.dly))
    (exec (.evTick 6) { State.reset with cnt := 65535, run := true, dly := 4 }) = some (5, 0) := by decide

/-- V-X2, and `CNT` held while `RUN = 0` (V-C3). -/
theorem test_ev_tick_held : reads (fun t => (t.cnt, t.dly))
      (exec (.evTick 5) { State.reset with cnt := 7, dly := 10 }) = some (7, 5) ∧
    reads id (exec (.evTick 0) (queued [.conv])) = some (queued [.conv]) := by decide

/-- V-X3. -/
theorem test_ev_csel : reads (fun t => (t.csel, t.cadence)) (exec (.evCsel 0b110) State.reset) =
    some (0b110, 1000) := by decide

/-- R195: 0 is no limit. -/
theorem test_ev_run : reads State.budget (exec (.evRun 0) State.reset) = some .unlimited ∧
    reads State.budget (exec (.evRun 2) State.reset) = some (.upTo 2) := by decide

/-- V-X4, V-X5. -/
theorem test_ev_reset : reads id (exec .evReset { edge .timing false with
      dly := 400, pcidx := 7, seg := 0xC0, pos := 0b1110, cadence := 10, iter := 6, distanceCm := 10,
      csel := 0b110, uq := [.showDigit 1 2, .iterInc], trig := true }) =
    some { State.reset with echo := false, csel := 0b110 } := by decide

/-- R5: a program is any function of the index, for example two words alternating for ever. -/
theorem test_program_alternates : (List.range 4).map (Program.word? ⟨[], .repeating [some 0x11000000, none]⟩) =
    [some 0x11000000, none, some 0x11000000, none] := by decide

/-- Loading past the listing keeps every other index. -/
theorem test_program_load : (List.range 5).map (Program.word? (Program.load
      ⟨[], .repeating [some 0x11000000, some 0x4F000000]⟩ 3 0x44000000)) =
    [some 0x11000000, some 0x4F000000, some 0x11000000, some 0x44000000, some 0x11000000] := by decide

/-! ## One step of the unit -/

/-- V-C6: a falling edge starts the counter from 0. -/
theorem test_handler_falling : reads (fun t => (t.edgeState, t.cnt, t.run, t.ipend)) (step (edge .idle false)) =
    some (.timing, 0, true, false) := by decide

/-- V-C8: a rising edge latches the count. -/
theorem test_handler_rising : reads (fun t => (t.edgeState, t.pulseTicks, t.run, t.cnt)) (step (edge .timing true)) =
    some (.idle, 300, false, 300) := by decide

/-- V-D19d, step 1. -/
theorem test_fetch : reads (fun t => (t.uq, t.pcidx)) (step (loaded 0x28000037)) = some ([.showDigit 7 3], 1) := by
  decide +kernel

/-- P6c, P6d, V-X6, V-X7. -/
theorem test_step_refusals : reason? (step (loaded 0x00000000)) = some .reservedEncoding ∧
    reason? (step (loaded 0xE0000000)) = some .stimulusInProgram ∧
    reason? (step (loaded 0xE1000005)) = some .stimulusInProgram ∧
    reason? (step (scheduled [0x11000000])) = some .commandInSchedule := by decide +kernel

/-- R9: a delay keeps the sequencer waiting, so the clock moves. -/
theorem test_delay_waits : reads (fun t => (t.dly, t.uq)) (step { queued [.trigLo] with dly := 10 }) =
    some (9, [.trigLo]) := by decide

/-- R193: a reset also reaches a unit with a handler step enabled. -/
theorem test_reset_line : reads (fun t => (t.ipend, t.edgeState, t.echo))
    (step { edge .timing false with rst := true }) = some (false, .idle, false) := by decide

/-- The word placed for the host is what the next step runs. -/
theorem test_with_fetch_word : reads State.uq (step (State.reset.withFetchWord 32 0x14000000)) =
    some [.irqDis, .rdptl, .rdpth, .irqEn] ∧
    reads State.csel (step (State.reset.withFetchWord 32 0xE2000006)) = some 0b110 ∧
    reason? (step (State.reset.withFetchWord 32 0x20000010)) = some .reservedEncoding := ⟨rfl, rfl, rfl⟩

/-! ## Witnesses: the hypotheses of each statement hold together -/

theorem witness_DecodeEncodeAgree : (Instr.delayUs 65535).encodable = true ∧
    (Instr.showDigit 10 5).encodable = true := by decide

theorem witness_DecodedWordIsItsEncoding : decode 0x2800005A = .ok (.showDigit 10 5) := rfl

theorem witness_WordsDecodeByTheOpcodeTable :
    (∃ r ∈ Spec.opcodeRows, (0x28000037 : Word) &&& r.2.1 = r.1) ∧
    (∀ r ∈ Spec.opcodeRows, (0x28000080 : Word) &&& r.2.1 ≠ r.1) := by
  constructor
  · exact ⟨(0x28000000, 0xFFFFFF80,
        fun w => .showDigit (BitVec.ofNat 4 w.toNat) (BitVec.ofNat 3 (w.toNat / 16))),
      by simp [Spec.opcodeRows], by decide⟩
  · simp [Spec.opcodeRows]

theorem witness_ReservedOpcodesAreRefused :
    (∃ (s : State) (w : Word) (e : DecodeError), s.turn = .seq ∧ s.uq = [] ∧
      s.program.word? s.pcidx = some w ∧ decode w = .error e) ∧
    (∃ (s : State) (w : Word) (rest : List Word) (e : DecodeError), s.turn = .item w rest ∧
      decode w = .error e) :=
  ⟨⟨loaded 0x05000000, _, _, rfl, rfl, rfl, rfl⟩, ⟨scheduled [0xE0000002], _, _, _, rfl, rfl⟩⟩

theorem witness_WordsOutOfPlaceAreRefused :
    (∃ (s : State) (w : Word) (i : Instr), s.turn = .seq ∧ s.uq = [] ∧ s.program.word? s.pcidx = some w ∧
      decode w = .ok i ∧ i.isStimulus = true) ∧
    (∃ (s : State) (w : Word) (rest : List Word) (i : Instr),
      s.turn = .item w rest ∧ decode w = .ok i ∧ i.isStimulus = false) :=
  ⟨⟨loaded 0xE0000000, _, _, rfl, rfl, rfl, rfl, rfl⟩, ⟨scheduled [0x11000000], _, _, _, rfl, rfl, rfl⟩⟩

theorem witness_SequencerFetchesExpandsOrPerforms :
    ((loaded 0x14000000).turn = .seq ∧ (loaded 0x14000000).uq = [] ∧ decode 0x14000000 = .ok .snapshot) ∧
    ((loaded 0xEF000000).turn = .seq ∧ (loaded 0xEF000000).uq = [] ∧ decode 0xEF000000 = .ok .evReset) ∧
    ((loaded 0).turn = .seq ∧ (loaded 0).uq = [] ∧ decode 0 = .error .reservedOpcode) ∧
    ((queued [.snapshot]).turn = .seq ∧ Instr.kind .snapshot = .comp ∧
      ∃ t, step (queued [.snapshot]) = .next t) :=
  ⟨⟨rfl, rfl, rfl⟩, ⟨rfl, rfl, rfl⟩, ⟨rfl, rfl, rfl⟩, rfl, rfl, _, rfl⟩

theorem witness_ScheduleItemsTakeTheirEffect : (scheduled [0xE1000244]).turn = .item 0xE1000244 [] ∧
    decode 0xE1000244 = .ok (.evTick 580) ∧ (Instr.evTick 580).isStimulus = true := ⟨rfl, rfl, rfl⟩

theorem witness_PlacedWordRunsNext : decode 0xE0000000 = .ok (.evEcho false) ∧
    (Instr.evEcho false).isStimulus = true ∧ decode 0x20000009 = .ok (.enc 9) ∧
    (Instr.enc 9).isStimulus = false := ⟨rfl, rfl, rfl, rfl⟩

theorem witness_EveryEnabledStepCanBeNext : ∃ s : State, s.rst = false ∧ ¬ s.enabled .irq ∧ s.enabled .seq :=
  ⟨queued [.conv], rfl, by simp [State.enabled, queued, State.reset, State.powerOn],
    by simp [State.enabled, queued, State.reset, State.powerOn]⟩

/-- Also with a handler step enabled and a delay running. -/
theorem witness_ResetLineWinsInEveryState : ∃ s : State, s.rst = true ∧ s.irqEnabled = true ∧ 0 < s.dly :=
  ⟨{ edge .timing false with rst := true, dly := 10 }, rfl, rfl, by decide⟩

theorem witness_HandlerTakesItsTransition : ∀ e pin, ∃ s : State,
    s.ipend = true ∧ s.ie = true ∧ s.rst = false ∧ s.edgeState = e ∧ s.echo = pin :=
  fun e pin => ⟨edge e pin, rfl, rfl, rfl, rfl, rfl⟩

theorem witness_InterruptLeavesMainContextAlone : ∃ s t, s.turn = .irq ∧ step s = .next t :=
  ⟨edge .timing true, _, rfl, rfl⟩

theorem witness_EchoChangeRequestsTheInterrupt : false ≠ State.reset.echo ∧ true = State.reset.echo := by decide

/-- A low pulse of 3 ticks, interrupts enabled, measured in one step between the edges. -/
theorem witness_LowPulseIsMeasured :
    ∃ (s u : State) (k : Nat) (w w' : Word) (rest rest' : List Word),
      s.ie = true ∧ s.ipend = false ∧ s.edgeState = .idle ∧ s.echo = true ∧
      s.turn = .item w rest ∧ decode w = .ok (.evEcho false) ∧
      (∀ j, j < k → ∀ v, SafeRun (2 + j) s v → v.keepsTiming) ∧
      SafeRun (2 + k) s u ∧ u.turn = .item w' rest' ∧ decode w' = .ok (.evEcho true) := by
  refine ⟨{ scheduled [0xE0000000, 0xE1000003, 0xE0000001] with ie := true }, _, 1, _, _, _, _,
    rfl, rfl, rfl, rfl, rfl, rfl, ?_, rfl, rfl, rfl⟩
  intro j hj v hv
  obtain rfl : j = 0 := by omega
  cases hv
  refine ⟨rfl, ?_, ?_⟩
  · intro w rest h
    cases h
    exact fun h => nomatch (show Except.ok (Instr.evTick 3) = .ok (.evEcho true) from h)
  · intro i h
    exact nomatch h.1

theorem witness_CounterMovesOnlyByTicks : ∃ s t, step s = .next t ∧ s.turn ≠ .irq ∧ s.takesReset = false ∧
    ¬ s.performs .treset ∧ s.run = true ∧ s.ticksTaken = 3 := by
  refine ⟨{ scheduled [0xE1000003] with run := true }, _, rfl, by decide, rfl, ?_, rfl, rfl⟩
  exact fun h => nomatch (show (none : Option Instr) = some .treset from h.2)

theorem witness_EdgeStateChangesOnlyInHandler : ∀ e, ∃ s t, step s = .next t ∧ s.takesReset = false ∧
    s.edgeState = e ∧ t.edgeState ≠ s.edgeState := by
  intro e
  cases e
  · exact ⟨edge .idle false, _, rfl, rfl, rfl, nofun⟩
  · exact ⟨edge .timing true, _, rfl, rfl, rfl, nofun⟩

theorem witness_PulseTicksChangesOnlyAtCapture : ∃ s t, step s = .next t ∧ s.takesReset = false ∧
    t.pulseTicks ≠ s.pulseTicks := ⟨edge .timing true, _, rfl, rfl, by decide⟩

theorem empty_program_timerFree {s : State} (hu : s.uq = []) (hp : s.program = Program.empty) : s.timerFree := by
  refine ⟨by simp [hu], ?_⟩
  intro k w i h
  simp [hp] at h

theorem witness_RunBitMatchesTiming : ∃ s t, s.captureInv ∧ step s = .next t ∧ t.run = true :=
  ⟨edge .idle false, _, ⟨empty_program_timerFree rfl rfl, by decide⟩, rfl, rfl⟩

/-- The firmware program of R179: IRQ_EN, then MAIN_ITER for ever. -/
theorem witness_RunBitMatchesTimingAtReset : ∃ prog : Program, prog.word? 0 = some 0x11000000 ∧
    prog.word? 7 = some 0x4F000000 ∧
    ∀ k w i, prog.word? k = some w → decode w = .ok i → i.writesTimer = false := by
  refine ⟨⟨[some 0x11000000], .repeating [some 0x4F000000]⟩, rfl, rfl, ?_⟩
  intro k w i hw hi
  rcases k with _ | k
  · obtain rfl : w = 0x11000000 := by simpa [Program.word?] using hw.symm
    obtain rfl : Instr.irqEn = i := Except.ok.inj hi
    rfl
  · obtain rfl : w = 0x4F000000 := by simpa [Program.word?] using hw.symm
    obtain rfl : Instr.mainIter = i := Except.ok.inj hi
    rfl

theorem witness_PendingFlagHasOneSource :
    (∃ s t, step s = .next t ∧ s.ipend = false ∧ t.ipend = true) ∧
    (∃ s t, step s = .next t ∧ s.ipend = true ∧ t.ipend = false) :=
  ⟨⟨scheduled [0xE0000000], _, rfl, rfl, rfl⟩, ⟨edge .idle false, _, rfl, rfl, rfl⟩⟩

theorem witness_EdgesMergeWhileDisabled : ∃ (s : State) (n : Half), s.rst = false ∧ s.ie = false ∧
    s.budget = .idle ∧ s.echo = decide (s.edgeState = .idle) ∧
    s.schedule = [encode (.evEcho (!s.echo)), encode (.evTick n), encode (.evEcho s.echo)] :=
  ⟨scheduled [0xE0000000, 0xE1000064, 0xE0000001], 100, rfl, rfl, rfl, rfl, rfl⟩

theorem witness_InterruptEnableCommands : State.reset.ie = false ∧
    ∃ s t : State, exec .irqEn s = .next t ∧ s.ipend = true ∧ s.rst = false :=
  ⟨rfl, { State.reset with ipend := true }, _, rfl, rfl, rfl⟩

theorem queued_quiet (uq : List Instr) : (queued uq).quiet := ⟨rfl, rfl, rfl, rfl⟩

theorem witness_SnapshotCopiesPulseTicks : ∃ (s : State) (rest : List Instr), s.quiet ∧ s.dly = 0 ∧
    s.uq = .snapshot :: rest := ⟨queued [.snapshot, .conv], _, queued_quiet _, rfl, rfl⟩

theorem witness_CriticalSectionReadCannotTear :
    (∃ s t, step s = .next t ∧ s.takesReset = false ∧ s.performs .irqDis) ∧
    (∃ (s t : State) (rest : List Instr), step s = .next t ∧ s.takesReset = false ∧ s.ie = false ∧
      ¬ s.performs .irqEn ∧ s.uq = .rdptl :: rest) ∧
    (∃ (s t : State), step s = .next t ∧ s.takesReset = false ∧ s.ie = false ∧ s.uq = [] ∧
      t.uq = [.rdpth]) ∧
    (∃ (s t : State) (rest : List Instr), step s = .next t ∧ s.takesReset = false ∧ s.ie = false ∧
      s.uq = .rdpth :: rest ∧ sameLowByte s.snap s.pulseTicks) :=
  ⟨⟨queued [.irqDis], _, rfl, rfl, rfl, rfl⟩,
    ⟨queued [.rdptl], _, _, rfl, rfl, rfl, by simp [State.performs, queued], rfl⟩,
    ⟨loaded 0x13000000, _, rfl, rfl, rfl, rfl, rfl⟩,
    ⟨{ queued [.rdpth] with pulseTicks := 0x0244, snap := 0x0044 }, _, _, rfl, rfl, rfl, rfl,
      by unfold sameLowByte; decide⟩⟩

theorem witness_InterruptEnableHasTwoWriters : ∀ b, ∃ s t, step s = .next t ∧ s.takesReset = false ∧
    t.ie ≠ s.ie ∧ t.ie = b := by
  intro b
  cases b
  · exact ⟨{ queued [.irqDis] with ie := true }, _, rfl, rfl, nofun, rfl⟩
  · exact ⟨queued [.irqEn], _, rfl, rfl, nofun, rfl⟩

theorem witness_EncodeLooksUpTheTable : (9 : BitVec 4).toNat < 10 ∧ 9 < (10 : BitVec 4).toNat := by decide

theorem witness_DigitDriverLines : (5 : BitVec 3) = 0 ∨ 4 < (5 : BitVec 3).toNat := by decide

theorem witness_DelaysCountTicks : ∃ s : State, 0 < s.dly := ⟨{ State.reset with dly := 1 }, by decide⟩

theorem witness_SequencerWaitsForTheDelay : ∃ s t, step s = .next t ∧ s.takesReset = false ∧ 0 < s.dly :=
  ⟨{ queued [.trigLo] with dly := 1 }, _, rfl, rfl, by decide⟩

theorem witness_ShowDigitLightsOneDigit :
    9 < (10 : BitVec 4).toNat ∧
    ((9 : BitVec 4).toNat ≤ 9 ∧ ((0 : BitVec 3) = 0 ∨ 4 < (0 : BitVec 3).toNat) ∧
      ((5 : BitVec 3) = 0 ∨ 4 < (5 : BitVec 3).toNat)) ∧
    ((9 : BitVec 4).toNat ≤ 9 ∧ 1 ≤ (4 : BitVec 3).toNat ∧ (4 : BitVec 3).toNat ≤ 4) ∧
    ∀ r ∈ Spec.positionLines, (9 : BitVec 4).toNat < 10 ∧ (queued [.showDigit 9 r.1]).quiet ∧
      (queued [.showDigit 9 r.1]).dly = 0 ∧ (queued [.showDigit 9 r.1]).uq = .showDigit 9 r.1 :: [] :=
  ⟨by decide, by decide, by decide, fun _ _ => ⟨by decide, queued_quiet _, rfl, rfl⟩⟩

theorem witness_LargeNumbersShowAsTheClamp : 9999 < (10000 : Half).toNat := by decide

theorem witness_DispnumStrobesItsDigits : ∃ (s : State) (v : Half) (rest : List Instr), s.quiet ∧ s.dly = 0 ∧
    s.params.wf ∧ s.uq = .dispnum v :: rest :=
  ⟨queued [.dispnum 907, .conv], _, _, queued_quiet _, rfl, by decide, rfl⟩

theorem witness_TriggerPulseHasItsWidth : ∃ (s : State) (rest : List Instr), s.quiet ∧ s.dly = 0 ∧
    s.uq = .trigger :: rest ∧ 10 ≤ 10 * s.params.ticksPerUs :=
  ⟨queued [.trigger, .iterClr], _, queued_quiet _, rfl, rfl, by decide⟩

theorem witness_SelectLinesPickTheCadence : ∀ c, ∃ s : State, s.csel = c :=
  fun c => ⟨{ State.reset with csel := c }, rfl⟩

/-- At the boundary, one below it, and at the sentinel. -/
theorem witness_CadenceCheckSchedulesACycle :
    (∃ s : State, s.cadence.toNat ≤ s.iter.toNat ∧ s.cadence ≠ 65535) ∧
    (∃ s : State, s.iter.toNat < s.cadence.toNat) ∧ (∃ s : State, s.cadence = 65535 ∧ s.iter = 65535) :=
  ⟨⟨{ State.reset with iter := 1000 }, by decide⟩, ⟨{ State.reset with iter := 999 }, by decide⟩,
    ⟨{ State.reset with iter := 65535, cadence := 65535 }, by decide⟩⟩

theorem witness_EvRunLetsTheSequencerMove :
    (∀ b, ∃ s : State, s.rst = false ∧ s.irqEnabled = false ∧ s.seqReady = true ∧ s.budget = b) ∧
    (∃ (s : State) (w : Word) (rest : List Word),
      s.rst = false ∧ s.irqEnabled = false ∧ s.schedule = w :: rest ∧ s.budget = .idle) ∧
    (∃ (s : State) (w : Word) (rest : List Word),
      s.rst = false ∧ s.irqEnabled = false ∧ s.schedule = w :: rest ∧ s.seqReady = false ∧
      s.budget = .unlimited) :=
  ⟨fun b => ⟨{ queued [.conv] with budget := b }, rfl, rfl, rfl, rfl⟩,
    ⟨scheduled [0xE1000001], _, _, rfl, rfl, rfl, rfl⟩,
    ⟨{ scheduled [0xE1000001] with budget := .unlimited }, _, _, rfl, rfl, rfl, rfl, rfl⟩⟩

theorem witness_ProgramPositionChangesOnlyByFetch : ∃ s t, step s = .next t ∧ s.takesReset = false ∧
    t.pcidx ≠ s.pcidx := ⟨loaded 0x14000000, _, rfl, rfl, by decide⟩

theorem witness_ParametersNeverChange : ∃ s t, step s = .next t ∧ t ≠ s :=
  ⟨loaded 0x14000000, _, rfl, by decide⟩

/-- Each register changes at some step, in the order of the statement. -/
theorem witness_RegistersHaveTheirWriters :
    (∃ s t, step s = .next t ∧ s.takesReset = false ∧ t.echo ≠ s.echo) ∧
    (∃ s t, step s = .next t ∧ s.takesReset = false ∧ t.csel ≠ s.csel) ∧
    (∃ s t, step s = .next t ∧ s.takesReset = false ∧ t.edgeState ≠ s.edgeState) ∧
    (∃ s t, step s = .next t ∧ s.takesReset = false ∧ t.cnt ≠ s.cnt) ∧
    (∃ s t, step s = .next t ∧ s.takesReset = false ∧ t.run ≠ s.run) ∧
    (∃ s t, step s = .next t ∧ s.takesReset = false ∧ t.pulseTicks ≠ s.pulseTicks) ∧
    (∃ s t, step s = .next t ∧ s.takesReset = false ∧ t.ie ≠ s.ie) ∧
    (∃ s t, step s = .next t ∧ s.takesReset = false ∧ t.ipend ≠ s.ipend) ∧
    (∃ s t, step s = .next t ∧ s.takesReset = false ∧ t.trig ≠ s.trig) ∧
    (∃ s t, step s = .next t ∧ s.takesReset = false ∧ t.pos ≠ s.pos) ∧
    (∃ s t, step s = .next t ∧ s.takesReset = false ∧ t.seg ≠ s.seg) ∧
    (∃ s t, step s = .next t ∧ s.takesReset = false ∧ t.pat ≠ s.pat) ∧
    (∃ s t, step s = .next t ∧ s.takesReset = false ∧ t.snap ≠ s.snap) ∧
    (∃ s t, step s = .next t ∧ s.takesReset = false ∧ t.distanceCm ≠ s.distanceCm) ∧
    (∃ s t, step s = .next t ∧ s.takesReset = false ∧ t.cadence ≠ s.cadence) ∧
    (∃ s t, step s = .next t ∧ s.takesReset = false ∧ t.iter ≠ s.iter) ∧
    (∃ s t, step s = .next t ∧ s.takesReset = false ∧ t.dly ≠ s.dly) ∧
    (∃ s t, step s = .next t ∧ s.takesReset = false ∧ t.uq ≠ s.uq) ∧
    (∃ s t, step s = .next t ∧ s.takesReset = false ∧ t.pcidx ≠ s.pcidx) :=
  ⟨⟨scheduled [0xE0000000], _, rfl, rfl, nofun⟩, ⟨scheduled [0xE2000006], _, rfl, rfl, by decide +kernel⟩,
    ⟨edge .idle false, _, rfl, rfl, nofun⟩, ⟨{ queued [.treset] with cnt := 7 }, _, rfl, rfl, by decide⟩,
    ⟨queued [.tstart], _, rfl, rfl, by decide⟩, ⟨edge .timing true, _, rfl, rfl, by decide⟩,
    ⟨queued [.irqEn], _, rfl, rfl, nofun⟩, ⟨edge .idle true, _, rfl, rfl, nofun⟩,
    ⟨queued [.trigHi], _, rfl, rfl, by decide⟩, ⟨queued [.posSel 4], _, rfl, rfl, by decide⟩,
    ⟨{ queued [.segSet] with pat := 0xC0 }, _, rfl, rfl, by decide⟩, ⟨queued [.enc 9], _, rfl, rfl, by decide⟩,
    ⟨{ queued [.tread] with cnt := 7 }, _, rfl, rfl, by decide⟩,
    ⟨{ queued [.conv] with snap := 58 }, _, rfl, rfl, by decide⟩,
    ⟨{ queued [.selcad] with csel := 0b110 }, _, rfl, rfl, by decide⟩,
    ⟨queued [.iterInc], _, rfl, rfl, by decide⟩, ⟨queued [.delayUs 10], _, rfl, rfl, by decide⟩,
    ⟨queued [.conv], _, rfl, rfl, by decide⟩, ⟨loaded 0x14000000, _, rfl, rfl, by decide⟩⟩

theorem witness_StepKeepsWellFormedState : ∃ s t : State, s.wf ∧ step s = .next t ∧ t.pat = 0x90 :=
  ⟨queued [.enc 9, .segSet], _, by decide, rfl, rfl⟩

theorem witness_LegalOperationsComplete : (Instr.showDigit 9 4).legal = true ∧
    (Instr.showDigit 10 4).legal = false ∧ (Instr.showDigit 9 5).legal = false := by decide

/-- The expansion of SHOW_DIGIT 7, 3 under way: at its head, and with 0, 3, 4 and 5 steps done. -/
theorem witness_ShowDigitInEveryInterleaving :
    (∃ s t, step s = .next t ∧ s.takesReset = false ∧ s.uq = .showDigit 7 3 :: []) ∧
    (∃ s t, step s = .next t ∧ s.takesReset = false ∧ s.driverPhase 7 3 [] 0) ∧
    (∃ s t, step s = .next t ∧ s.takesReset = false ∧ s.driverPhase 7 3 [.conv] 3) ∧
    (∃ s t, step s = .next t ∧ s.takesReset = false ∧ s.driverPhase 7 3 [] 4 ∧ s.turn = .seq ∧ s.params.wf) ∧
    (∃ s t, step s = .next t ∧ s.takesReset = false ∧ s.driverPhase 7 3 [] 5) := by
  refine ⟨⟨queued [.showDigit 7 3], _, rfl, rfl, rfl⟩,
    ⟨queued [.posBlank, .segOff, .enc 7, .segSet, .posSel 3, .delayMs 1], _, rfl, rfl, ?_⟩,
    ⟨{ queued [.segSet, .posSel 3, .delayMs 1, .conv] with pat := 0xF8 }, _, rfl, rfl, ?_⟩,
    ⟨{ queued [.posSel 3, .delayMs 1] with pat := 0xF8, seg := 0xF8 }, _, rfl, rfl, ?_, rfl, by decide⟩,
    ⟨{ queued [.delayMs 1] with pat := 0xF8, seg := 0xF8, pos := 0b1011 }, _, rfl, rfl, ?_⟩⟩ <;>
  (unfold State.driverPhase; decide)

/-- DISPNUM 0 from its head to its end, eight steps. -/
theorem witness_DispnumStrobesInEveryInterleaving : ∃ (s t : State) (rest : List Instr) (k : Nat),
    s.params.wf ∧ s.uq = .dispnum 0 :: rest ∧ SafeRun k s t ∧
    (∀ j < k, ∀ u, SafeRun j s u → u.takesReset = false ∧ rest.length < u.uq.length) ∧ t.uq = rest := by
  refine ⟨queued [.dispnum 0], _, [], 8, by decide, rfl, rfl, ?_, rfl⟩
  intro j hj u hu
  interval_cases j <;> (cases hu; exact ⟨rfl, by decide⟩)

theorem witness_TriggerPulseInEveryInterleaving :
    (∃ s t, step s = .next t ∧ s.takesReset = false ∧ s.uq = .trigger :: [.iterClr]) ∧
    (∃ s t, step s = .next t ∧ s.takesReset = false ∧ s.uq = .trigHi :: [.delayUs 10, .trigLo]) ∧
    (∃ s t, step s = .next t ∧ s.takesReset = false ∧ s.uq = .delayUs 10 :: .trigLo :: [] ∧ s.trig = true) ∧
    (∀ n, ∃ s t, step s = .next t ∧ s.takesReset = false ∧ s.uq = .trigLo :: [] ∧ s.trig = true ∧ s.dly = n) := by
  refine ⟨⟨queued [.trigger, .iterClr], _, rfl, rfl, rfl⟩, ⟨queued [.trigHi, .delayUs 10, .trigLo], _, rfl, rfl, rfl⟩,
    ⟨{ queued [.delayUs 10, .trigLo] with trig := true }, _, rfl, rfl, rfl, rfl⟩, fun n => ?_⟩
  cases n with
  | zero => exact ⟨{ queued [.trigLo] with trig := true }, _, rfl, rfl, rfl, rfl, rfl⟩
  | succ n => exact ⟨{ queued [.trigLo] with trig := true, dly := n + 1 }, _, rfl, rfl, rfl, rfl, rfl⟩

theorem witness_SnapshotInEveryInterleaving :
    (∃ s t, step s = .next t ∧ s.takesReset = false ∧ s.uq = .snapshot :: []) ∧
    (∃ s t, step s = .next t ∧ s.takesReset = false ∧ s.snapshotPhase [] 0) ∧
    (∃ s t, step s = .next t ∧ s.takesReset = false ∧ s.snapshotPhase [.conv] 2) ∧
    (∃ s t, step s = .next t ∧ s.takesReset = false ∧ s.snapshotPhase [] 3) := by
  refine ⟨⟨queued [.snapshot], _, rfl, rfl, rfl⟩, ⟨queued [.irqDis, .rdptl, .rdpth, .irqEn], _, rfl, rfl, ?_⟩,
    ⟨{ queued [.rdpth, .irqEn, .conv] with pulseTicks := 0x0244, snap := 0x0044 }, _, rfl, rfl, ?_⟩,
    ⟨{ queued [.irqEn] with pulseTicks := 0x0244, snap := 0x0244 }, _, rfl, rfl, ?_⟩⟩ <;>
  (unfold State.snapshotPhase sameLowByte; decide)

end Sys2Proof.Tests
end

section
/-! SUPPORT. The statements of `00_scope.md`: whose step is enabled (R9), what the sequencer's turn is (R10),
what changes `PCIDX` (R12), the parameters that no step changes (R5). First one rule per agent's turn and per
step operation, then the statements, which only put these rules together. -/

namespace Sys2Proof.Machine

/-! ## The model's turn order against the enabling conditions of R9 -/

theorem State.irqEnabled_eq_true_iff (s : State) : s.irqEnabled = true ↔ s.enabled .irq := by
  simp [State.irqEnabled, State.enabled]

theorem State.irqEnabled_eq_false_iff (s : State) : s.irqEnabled = false ↔ ¬ s.enabled .irq := by
  rw [← State.irqEnabled_eq_true_iff, Bool.not_eq_true]

theorem State.seqReady_eq_true_iff (s : State) :
    s.seqReady = true ↔ s.dly = 0 ∧ (s.uq ≠ [] ∨ s.program.word? s.pcidx ≠ none) := by
  simp [State.seqReady, Option.isSome_iff_ne_none]

theorem State.enabled_seq_iff (s : State) : s.enabled .seq ↔ ¬ s.enabled .irq ∧ s.seqReady = true := by
  rw [State.seqReady_eq_true_iff]; rfl

/-! ## The step of each turn -/

theorem step_fetches {s : State} {w : Word} (ht : s.turn = .seq) (hu : s.uq = [])
    (hw : s.program.word? s.pcidx = some w) : step s = fetchWord w { s with budget := s.budget.spend } := by
  simp only [step, takeTurn, ht, seqStep, hu, hw]

theorem step_performs {s : State} {i : Instr} {rest : List Instr} (ht : s.turn = .seq)
    (hu : s.uq = i :: rest) (hi : i.isStimulus = false) :
    step s = exec i { s with uq := rest, budget := s.budget.spend } := by
  simp [step, takeTurn, ht, seqStep, hu, hi]

theorem step_takes_stimulus {s : State} {w : Word} {rest : List Word} {i : Instr}
    (ht : s.turn = .item w rest) (hd : decode w = .ok i) (hi : i.isStimulus = true) :
    step s = exec i { s with schedule := rest, budget := .idle } := by
  simp [step, takeTurn, ht, scheduleStep, hd, hi]

theorem fetchWord_command {s : State} {w : Word} {i : Instr} (hd : decode w = .ok i)
    (hi : i.isStimulus = false) : fetchWord w s = .next { s with uq := [i], pcidx := s.pcidx + 1 } := by
  simp [fetchWord, hd, hi]

theorem fetchWord_stimulus {s : State} {w : Word} {i : Instr} (hd : decode w = .ok i)
    (hi : i.isStimulus = true) : fetchWord w s = .refused .stimulusInProgram := by
  simp [fetchWord, hd, hi]

theorem fetchWord_error {s : State} {w : Word} {e : DecodeError} (hd : decode w = .error e) :
    fetchWord w s = .refused .reservedEncoding := by
  simp [fetchWord, hd]

/-- A stimulus word at the head of the schedule, with no EV_RUN in progress, takes its effect next. -/
theorem step_scheduled_stimulus {s : State} {w : Word} {i : Instr} (rest : List Word)
    (hr : s.rst = false) (hirq : s.irqEnabled = false) (hd : decode w = .ok i) (hi : i.isStimulus = true) :
    step { s with budget := .idle, schedule := w :: rest } =
      exec i { s with budget := .idle, schedule := rest } :=
  step_takes_stimulus (State.turn_item hr hirq rfl rfl) hd hi

/-! ## The frames of the meanings that the statements need -/

/-- Expanding a composite puts operations in front of `UQ` and does nothing else (R10(b)). -/
theorem exec_composite_pushes {i : Instr} {s t : State} (hk : i.kind = .comp) (h : exec i s = .next t) :
    ∃ l, t = s.pushFront l := by
  cases i with
  | showDigit d p =>
    simp only [exec, execShowDigit] at h
    split at h
    · cases h
    · split at h <;> cases h
      exact ⟨_, rfl⟩
  | snapshot | dispnum | trigger | miCheck | mainIter => cases h; exact ⟨_, rfl⟩
  | _ => simp [Instr.kind] at hk

/-- No operation writes a parameter or the program, command or stimulus word. -/
theorem exec_params_program {i : Instr} {s t : State} (h : exec i s = .next t) :
    t.params = s.params ∧ t.program = s.program := by
  cases hi : i.isStimulus with
  | false =>
    obtain ⟨⟨-, -, -, -, -, -, -, hparams, hprogram, -⟩, -⟩ := exec_command_frame hi h
    exact ⟨hparams, hprogram⟩
  | true =>
    rcases exec_stimulus_cases hi h with ⟨l, -, rfl⟩ | ⟨n, -, rfl⟩ | ⟨c, -, rfl⟩ | ⟨n, -, rfl⟩ | ⟨-, rfl⟩
    · simp [State.senseEcho_eq]
    · simp [State.ticks_eq]
    · simp
    · simp
    · exact ⟨rfl, rfl⟩

/-! ## The load from outside (log 9) -/

@[simp] theorem tableWord_toNat (w : Word) : tableWord 32 w.toNat = w := by
  simp [tableWord, Nat.mod_eq_of_lt w.isLt]

theorem State.placeWord_stimulus {s : State} {w : Word} {i : Instr} (hd : decode w = .ok i)
    (hi : i.isStimulus = true) : s.placeWord w =
      { s with rst := false, ipend := false, budget := .idle, schedule := w :: s.schedule } := by
  simp [State.placeWord, hd, hi]

theorem State.placeWord_command {s : State} {w : Word} {i : Instr} (hd : decode w = .ok i)
    (hi : i.isStimulus = false) : s.placeWord w =
      { s with
        rst := false, ipend := false, dly := 0, budget := .upTo 1
        program := s.program.load s.pcidx w, uq := [i], pcidx := s.pcidx + 1 } := by
  simp [State.placeWord, hd, hi]

/-! ## The statements -/

/-- Settles O11: one stimulus word in the schedule is the next step (`step_scheduled_stimulus`), and its
meaning is its effect; a sequencer enabled by R9 is ready, so an EV_RUN in progress gives it the turn. -/
theorem everyEnabledStepCanBeNext : Obligations.EveryEnabledStepCanBeNext := by
  unfold Obligations.EveryEnabledStepCanBeNext
  intro s hr hirq
  rw [← State.irqEnabled_eq_false_iff] at hirq
  refine ⟨fun l => ?_, fun c => ?_, ?_, ?_, fun hseq => ?_⟩
  · rw [step_scheduled_stimulus [] hr hirq (Laws.RoundTrip.evEcho l rfl) rfl, exec, execEvEcho,
      State.senseEcho_eq]
  · rw [step_scheduled_stimulus [] hr hirq (Laws.RoundTrip.evCsel c rfl) rfl]; rfl
  · rw [step_scheduled_stimulus [] hr hirq (Laws.RoundTrip.evTick 1 rfl) rfl]; rfl
  · rw [step_scheduled_stimulus [] hr hirq (Laws.RoundTrip.evReset rfl) rfl]; rfl
  · obtain ⟨-, hready⟩ := (State.enabled_seq_iff s).1 hseq
    exact State.turn_seq hr hirq rfl hready

/-- Settles O35: with `DLY > 0` the step is one that waits, for a fetch or an operation off `UQ` is taken at
`DLY = 0` only. -/
theorem sequencerWaitsForTheDelay : Obligations.SequencerWaitsForTheDelay := by
  unfold Obligations.SequencerWaitsForTheDelay
  intro s t h hr hdly
  rcases step_waits_or_moves h hr with ⟨-, hframe, -⟩ | ⟨-, hd, -⟩ | ⟨-, hd, -⟩
  · obtain ⟨huq, hpc, htrig, hpos, hseg, hpat, hsnap, hdist, hcad, hiter, hie, -, -, hticks⟩ := hframe
    exact ⟨huq, hpc, htrig, hpos, hseg, hpat, hsnap, hdist, hcad, hiter, hie, hticks⟩
  · omega
  · omega

/-- Settles O50: a step that waits and an operation off `UQ` keep `PCIDX`, which leaves the fetch. -/
theorem programPositionChangesOnlyByFetch : Obligations.ProgramPositionChangesOnlyByFetch := by
  unfold Obligations.ProgramPositionChangesOnlyByFetch
  intro s t h hr hne
  rcases step_waits_or_moves h hr with ⟨-, ⟨-, hpc, -⟩, -⟩ | ⟨ht, -, hu, _, _, -, -, -, rfl⟩ |
    ⟨-, -, _, _, -, hi, he⟩
  · exact absurd hpc hne
  · exact ⟨ht, hu, rfl⟩
  · obtain ⟨⟨-, -, -, -, -, -, hpc, -⟩, -⟩ := exec_command_frame hi he
    exact absurd hpc hne

/-- Settles O51, by the cases of a step: reset, the handler, a fetch, an operation off `UQ`, a stimulus word,
a tick. -/
theorem parametersNeverChange : Obligations.ParametersNeverChange := by
  unfold Obligations.ParametersNeverChange
  intro s t h
  rcases step_cases h with ⟨-, rfl⟩ | ⟨-, rfl⟩ | ⟨-, -, -, _, _, -, -, -, rfl⟩ | ⟨-, -, _, _, -, -, he⟩ |
    ⟨_, _, _, -, -, -, -, he⟩ | ⟨-, -, -, rfl⟩
  · exact ⟨rfl, rfl⟩
  · simp [State.takeInterrupt_eq]
  · exact ⟨rfl, rfl⟩
  · exact (exec_params_program he :)
  · exact (exec_params_program he :)
  · exact ⟨rfl, rfl⟩

/-- Settles O7, clause by clause: the fetch of a command, of a stimulus word and of a reserved word, and the
operation at the head of `UQ` with the frame of a composite. -/
theorem sequencerFetchesExpandsOrPerforms : Obligations.SequencerFetchesExpandsOrPerforms := by
  unfold Obligations.SequencerFetchesExpandsOrPerforms
  intro s ht
  refine ⟨fun hu w i hw hd hi => ?_, fun hu w i hw hd hi => ?_, fun hu w e hw hd => ?_,
    fun i rest hu hi => ?_⟩
  · rw [step_fetches ht hu hw, fetchWord_command hd hi]
  · rw [step_fetches ht hu hw, fetchWord_stimulus hd hi]
  · rw [step_fetches ht hu hw, fetchWord_error hd]
  · rw [step_performs ht hu hi]
    exact ⟨rfl, fun hk t he => exec_composite_pushes hk he⟩

/-- Settles O9: the load puts a stimulus word at the head of the schedule and any other operation alone into
`UQ`, with an EV_RUN of one step. -/
theorem placedWordRunsNext : Obligations.PlacedWordRunsNext := by
  unfold Obligations.PlacedWordRunsNext
  intro s w i hd
  rw [State.withFetchWord, tableWord_toNat]
  cases hi : i.isStimulus with
  | true =>
    rw [State.placeWord_stimulus hd hi]
    exact ⟨_, step_scheduled_stimulus (s := { s with rst := false, ipend := false }) s.schedule rfl rfl hd hi,
      fun _ => rfl, nofun⟩
  | false =>
    rw [State.placeWord_command hd hi]
    exact ⟨_, step_performs (State.turn_seq rfl rfl rfl rfl) rfl hi, nofun, fun _ => rfl⟩

/-- Settles O10, by whose turn it is. -/
theorem stepsTakenAreEnabled : Obligations.StepsTakenAreEnabled := by
  unfold Obligations.StepsTakenAreEnabled
  intro s
  rcases s.turn_cases with ⟨ht, -⟩ |
    ⟨-, ⟨ht, hirq⟩ | ⟨hirq, ⟨ht, hready⟩ | ⟨w, rest, ht, -⟩ | ⟨ht, -, -⟩⟩⟩
  · simp only [ht, State.takesReset]
  · simp only [ht]
    exact (State.irqEnabled_eq_true_iff s).1 hirq
  · simp only [ht]
    exact (State.enabled_seq_iff s).2 ⟨(State.irqEnabled_eq_false_iff s).1 hirq, hready⟩
  · simp only [ht]
    exact ⟨(State.irqEnabled_eq_false_iff s).1 hirq, (State.irqEnabled_eq_false_iff s).1 hirq⟩
  · simp only [ht]
    exact (State.irqEnabled_eq_false_iff s).1 hirq

end Sys2Proof.Machine
end

section
/-! SUPPORT. The statements of `10_state.md`: what a run starts in (R44), which step writes each register (R45,
with R30, R31, R37, R38) and the well-formedness every step keeps (R24, R25, R32, R34, R35). First what each
command leaves behind, said once, then the statements. -/

namespace Sys2Proof.Machine

/-! ## What one command leaves behind -/

/-- `CommandEffect s i t`: `t` is what the command `i` leaves at `s` when it is not refused
(`exec_command_effect`). Every command writes one register, a composite only the front of `UQ`. -/
inductive CommandEffect (s : State) : Instr → State → Prop
  | expand {i : Instr} (hk : i.kind = .comp) (l : List Instr) : CommandEffect s i (s.pushFront l)
  | treset : CommandEffect s .treset (s.writeCnt 0)
  | tstart : CommandEffect s .tstart (s.setRun true)
  | tstop : CommandEffect s .tstop (s.setRun false)
  | tread : CommandEffect s .tread (s.writeSnap s.cnt)
  | irqDis : CommandEffect s .irqDis (s.setIe false)
  | irqEn : CommandEffect s .irqEn (s.setIe true)
  | rdptl : CommandEffect s .rdptl (s.writeSnap (joinBytes (highByte s.snap) (lowByte s.pulseTicks)))
  | rdpth : CommandEffect s .rdpth (s.writeSnap (joinBytes (highByte s.pulseTicks) (lowByte s.snap)))
  | enc {d : BitVec 4} {v : Byte} (hv : segtab? s.params d = some v) : CommandEffect s (.enc d) (s.writePat v)
  | posBlank : CommandEffect s .posBlank (s.writePos 0b1111)
  | segOff : CommandEffect s .segOff (s.writeSeg 0xFF)
  | segSet : CommandEffect s .segSet (s.writeSeg s.pat)
  | posSel {p : BitVec 3} (hp : legalPosition p = true) :
      CommandEffect s (.posSel p) (s.writePos (positionPattern p))
  | delayUs (n : Nat) : CommandEffect s (.delayUs n) (s.writeDly (microsecondTicks s.params n))
  | delayMs (n : Nat) : CommandEffect s (.delayMs n) (s.writeDly (millisecondTicks s.params n))
  | trigHi : CommandEffect s .trigHi (s.writeTrig true)
  | trigLo : CommandEffect s .trigLo (s.writeTrig false)
  | selcad {p : Preset} (hp : selectedPreset s.csel = some p) : CommandEffect s .selcad (s.writeCadence p.value)
  | selcadNone (hp : selectedPreset s.csel = none) : CommandEffect s .selcad (s.writeCadence s.cadence)
  | conv : CommandEffect s .conv (s.writeDistance (s.snap / Config.cmDivisor))
  | iterInc : CommandEffect s .iterInc (s.writeIter (s.iter + 1))
  | iterClr : CommandEffect s .iterClr (s.writeIter 0)

/-- A command that answers a next state has its effect. -/
theorem exec_command_effect {i : Instr} {s t : State} (hi : i.isStimulus = false) (h : exec i s = .next t) :
    CommandEffect s i t := by
  cases i with
  | evEcho | evTick | evCsel | evRun | evReset => simp [Instr.isStimulus, Instr.kind] at hi
  | snapshot | showDigit | dispnum | trigger | miCheck | mainIter =>
    obtain ⟨l, rfl⟩ := exec_composite_pushes rfl h
    exact .expand rfl l
  | enc d =>
    simp only [exec, execEnc] at h
    split at h
    · next v hv => cases h; exact .enc hv
    · cases h
  | posSel p =>
    simp only [exec, execPosSel] at h
    split at h
    · cases h
    · next hp => cases h; exact .posSel ((positionRefusal?_eq_none_iff p).1 hp)
  | selcad =>
    simp only [exec, execSelcad] at h
    split at h
    · next p hp => cases h; exact .selcad hp
    · next hp => cases h; exact .selcadNone hp
  | delayUs n => cases h; exact .delayUs n
  | delayMs n => cases h; exact .delayMs n
  | treset | tstart | tstop | tread | irqDis | irqEn | rdptl | rdpth | posBlank | segOff | segSet | trigHi
  | trigLo | conv | iterInc | iterClr => cases h; constructor

/-! ## The sequencer's turn with an operation at the head of `UQ`, and the turn of a reset -/

/-- With `i` at the head of `UQ` the sequencer's step performs `i` and nothing else. -/
theorem State.performs_iff {s : State} {i : Instr} {rest : List Instr} (ht : s.turn = .seq)
    (hu : s.uq = i :: rest) (j : Instr) : s.performs j ↔ i = j := by
  simp [State.performs, ht, hu]

/-- A step that resets the unit leaves the reset step of some state: by the line, or by EV_RESET. -/
theorem step_of_takesReset {s t : State} (hr : s.takesReset = true) (h : step s = .next t) :
    ∃ u : State, t = u.resetStep := by
  rcases step_cases h with ⟨-, rfl⟩ | ⟨ht, -⟩ | ⟨ht, -⟩ | ⟨ht, -⟩ | ⟨w, rest, i, ht, -, hd, -, he⟩ | ⟨ht, -⟩
  · exact ⟨_, rfl⟩
  · simp [State.takesReset, ht] at hr
  · simp [State.takesReset, ht] at hr
  · simp [State.takesReset, ht] at hr
  · obtain rfl : i = .evReset := by simpa [State.takesReset, ht, hd] using hr
    cases he
    exact ⟨_, rfl⟩
  · simp [State.takesReset, ht] at hr

/-! ## Ticks -/

theorem State.tick_eq_ticks_one (s : State) : s.tick = s.ticks 1 := by
  rw [State.ticks_succ, State.ticks_zero]

/-- Ticks move the counter only while `RUN = 1`, and it takes at least one. -/
theorem run_and_pos_of_countTicks_ne {run : Bool} {cnt : Half} {n : Nat} (h : countTicks run cnt n ≠ cnt) :
    run = true ∧ 0 < n := by
  cases run with
  | false => exact absurd rfl h
  | true =>
    refine ⟨rfl, Nat.pos_of_ne_zero fun hn => h ?_⟩
    simp [countTicks, hn]

/-! ## The conditions of well-formedness, each kept by the command that writes the register -/

/-- No line asserted. -/
theorem exclusive_allOff : exclusive 0b1111 := by decide

theorem exclusive_positionPattern {p : BitVec 3} (hp : legalPosition p = true) :
    exclusive (positionPattern p) := by
  rcases positionPattern_lines p hp with h | h | h | h <;> rw [h] <;> decide

theorem isPattern_of_segtab? {p : Params} {d : BitVec 4} {v : Byte} (h : segtab? p d = some v) :
    isPattern p v := by
  obtain ⟨hd, hv⟩ := (segtab?_eq_some_iff p d v).1 h
  exact .inr ⟨⟨d.toNat, hd⟩, hv⟩

/-- 65535 div 58 = 1129 (R34). -/
theorem conversion_le (v : Half) : (v / Config.cmDivisor).toNat ≤ 1129 := by
  have hv := v.isLt
  rw [BitVec.toNat_udiv, show Config.cmDivisor.toNat = 58 from rfl]
  omega

theorem State.wf_powerOn (p : Params) (prog : Program) (sched : List Word) :
    (State.powerOn p prog sched).wf :=
  ⟨exclusive_allOff, .inl rfl, .inl rfl, presetValue_cases p.cadenceReset, Nat.zero_le _, nofun⟩

/-- The reset state is the starting state in all that well-formedness speaks of. -/
theorem State.wf_resetStep (s : State) : s.resetStep.wf :=
  State.wf_powerOn s.params s.program s.schedule

/-- A command keeps well-formedness: it queues no stimulus word, and the one register it writes gets a value
of the required form. -/
theorem exec_command_keeps_wf {i : Instr} {s t : State} (hi : i.isStimulus = false) (h : exec i s = .next t)
    (hs : s.wf) : t.wf := by
  obtain ⟨hpos, hseg, hpat, hcad, hdist, huq⟩ := hs
  obtain ⟨-, l, htuq, hl⟩ := exec_command_frame hi h
  have hq : ∀ j ∈ t.uq, j.isStimulus = false := by
    rw [htuq, List.forall_mem_append]
    exact ⟨fun j hj => (hl j hj).1, huq⟩
  cases exec_command_effect hi h with
  | posBlank => exact ⟨exclusive_allOff, hseg, hpat, hcad, hdist, hq⟩
  | posSel hp => exact ⟨exclusive_positionPattern hp, hseg, hpat, hcad, hdist, hq⟩
  | segOff => exact ⟨hpos, .inl rfl, hpat, hcad, hdist, hq⟩
  | segSet => exact ⟨hpos, hpat, hpat, hcad, hdist, hq⟩
  | enc hv => exact ⟨hpos, hseg, isPattern_of_segtab? hv, hcad, hdist, hq⟩
  | @selcad p _ => exact ⟨hpos, hseg, hpat, presetValue_cases p, hdist, hq⟩
  | conv => exact ⟨hpos, hseg, hpat, hcad, conversion_le s.snap, hq⟩
  | expand | treset | tstart | tstop | tread | irqDis | irqEn | rdptl | rdpth | delayUs | delayMs | trigHi
  | trigLo | selcadNone | iterInc | iterClr => exact ⟨hpos, hseg, hpat, hcad, hdist, hq⟩

/-! ## The statements -/

/-- Settles O53: a reset starts anew from a well-formed state, a step that waits touches nothing the invariant
speaks of, a fetch queues a command, and an operation off `UQ` keeps it (`exec_command_keeps_wf`). -/
theorem stepKeepsWellFormedState : Obligations.StepKeepsWellFormedState := by
  unfold Obligations.StepKeepsWellFormedState
  intro s t hs h
  cases hr : s.takesReset with
  | true =>
    obtain ⟨u, rfl⟩ := step_of_takesReset hr h
    exact u.wf_resetStep
  | false =>
    obtain ⟨hpos, hseg, hpat, hcad, hdist, hq⟩ := hs
    rcases step_waits_or_moves h hr with ⟨-, hframe, -⟩ | ⟨-, -, -, _, i, -, -, hi, rfl⟩ |
      ⟨-, -, i, rest, hu, hi, he⟩
    · obtain ⟨huq', -, -, hpos', hseg', hpat', -, hdist', hcad', -, -, hparams', -⟩ := hframe
      simp only [State.wf, huq', hpos', hseg', hpat', hdist', hcad', hparams']
      exact ⟨hpos, hseg, hpat, hcad, hdist, hq⟩
    · exact ⟨hpos, hseg, hpat, hcad, hdist, by simpa using hi⟩
    · rw [hu] at hq
      exact exec_command_keeps_wf hi he ⟨hpos, hseg, hpat, hcad, hdist, (List.forall_mem_cons.1 hq).2⟩

/-- Settles O24, by the cases of a step: only the handler, a reset and a change of level write `IPEND`. -/
theorem pendingFlagHasOneSource : Obligations.PendingFlagHasOneSource := by
  unfold Obligations.PendingFlagHasOneSource
  intro s t h
  rcases step_cases h with ⟨ht, rfl⟩ | ⟨ht, rfl⟩ | ⟨-, -, -, _, _, -, -, -, rfl⟩ | ⟨-, -, _, _, -, hi, he⟩ |
    ⟨w, rest, i, ht, -, hd, hi, he⟩ | ⟨-, -, -, rfl⟩
  · exact ⟨fun _ => nofun, fun _ _ => .inr (by simp [State.takesReset, ht])⟩
  · exact ⟨by simp [State.takeInterrupt_eq], fun _ _ => .inl ht⟩
  · simp +contextual
  · obtain ⟨⟨-, -, -, -, -, hipend, -⟩, -⟩ := exec_command_frame hi he
    simp +contextual [hipend]
  · rcases exec_stimulus_cases hi he with ⟨l, rfl, rfl⟩ | ⟨n, rfl, rfl⟩ | ⟨c, rfl, rfl⟩ | ⟨n, rfl, rfl⟩ |
      ⟨rfl, rfl⟩
    · simp +contextual [State.senseEcho_eq, ht, hd]
    · simp +contextual [State.ticks_eq]
    · simp +contextual
    · simp +contextual
    · exact ⟨fun _ => nofun, fun _ _ => .inr (by simp [State.takesReset, ht, hd])⟩
  · simp +contextual [State.tick_eq]

/-- Settles O31: a step that waits and a fetch keep `IE`, and of the commands only these two write it. -/
theorem interruptEnableHasTwoWriters : Obligations.InterruptEnableHasTwoWriters := by
  unfold Obligations.InterruptEnableHasTwoWriters
  intro s t h hr hne
  rcases step_waits_or_moves h hr with ⟨-, hframe, -⟩ | ⟨-, -, -, _, _, -, -, -, rfl⟩ |
    ⟨ht, -, i, rest, hu, hi, he⟩
  · obtain ⟨-, -, -, -, -, -, -, -, -, -, hie, -⟩ := hframe
    exact absurd hie hne
  · exact absurd rfl hne
  · cases exec_command_effect hi he with
    | irqDis => exact .inl ⟨(State.performs_iff ht hu _).2 rfl, rfl⟩
    | irqEn => exact .inr ⟨(State.performs_iff ht hu _).2 rfl, rfl⟩
    | expand | treset | tstart | tstop | tread | rdptl | rdpth | enc | posBlank | segOff | segSet | posSel
    | delayUs | delayMs | trigHi | trigLo | selcad | selcadNone | conv | iterInc | iterClr =>
      exact absurd rfl hne

/-- Settles O52, by the cases of a step, each with the registers its agent writes: the handler, a fetch, the
one register of the command off `UQ`, a stimulus word, a tick. Ticks write `CNT` and `DLY`: `CNT` only while
`RUN = 1` (`run_and_pos_of_countTicks_ne`), `DLY` downward. -/
theorem registersHaveTheirWriters : Obligations.RegistersHaveTheirWriters := by
  unfold Obligations.RegistersHaveTheirWriters
  intro s t h hr
  rcases step_cases h with ⟨ht, -⟩ | ⟨ht, rfl⟩ | ⟨ht, hu, -, _, _, -, -, -, rfl⟩ |
    ⟨ht, -, i, rest, hu, hi, he⟩ | ⟨w, rest, i, ht, -, hd, hi, he⟩ | ⟨ht, -, -, rfl⟩
  · simp [State.takesReset, ht] at hr
  · simp [State.takeInterrupt_eq, ht]
  · simp [ht, hu]
  · have hperf := State.performs_iff ht hu
    cases exec_command_effect hi he with
    | expand | treset | tstart | tstop | tread | irqDis | irqEn | rdptl | rdpth | enc | posBlank | segOff
    | segSet | posSel | delayUs | delayMs | trigHi | trigLo | selcad | selcadNone | conv | iterInc
    | iterClr => simp [hperf, ht]
  · rcases exec_stimulus_cases hi he with ⟨l, rfl, rfl⟩ | ⟨n, rfl, rfl⟩ | ⟨c, rfl, rfl⟩ | ⟨n, rfl, rfl⟩ |
      ⟨rfl, rfl⟩
    · simp [State.senseEcho_eq, ht, hd]
    · have hn : s.ticksTaken = n.toNat := by simp [State.ticksTaken, ht, hd]
      have hcnt := @run_and_pos_of_countTicks_ne s.run s.cnt n.toNat
      grind [State.ticks_eq]
    · simp [ht, hd]
    · simp
    · simp [State.takesReset, ht, hd] at hr
  · have hn : s.ticksTaken = 1 := by simp [State.ticksTaken, ht]
    have hcnt := @run_and_pos_of_countTicks_ne s.run s.cnt 1
    grind [State.tick_eq_ticks_one, State.ticks_eq]

/-- Settles O23: no operation is queued at the start, and the counter stands in Idle. -/
theorem runBitMatchesTimingAtReset : Obligations.RunBitMatchesTimingAtReset := by
  have hstart : ∀ (p : Params) (prog : Program) (sched : List Word),
      (∀ k w i, prog.word? k = some w → decode w = .ok i → i.writesTimer = false) →
      (State.powerOn p prog sched).captureInv :=
    fun _ _ _ hprog => ⟨⟨nofun, hprog⟩, nofun, nofun⟩
  exact ⟨hstart, hstart Config.params Program.empty [] fun k w i hw => by simp at hw⟩

/-- Settles O48: the starting state is written register by register as R44 lists them. -/
theorem runStartsInTheResetState : Obligations.RunStartsInTheResetState := by
  unfold Obligations.RunStartsInTheResetState
  intro p prog sched
  rfl

/-- Settles O54: `State.reset` is one of the starting states. -/
theorem resetStateIsWellFormed : Obligations.ResetStateIsWellFormed :=
  ⟨State.wf_powerOn, State.wf_powerOn Config.params Program.empty []⟩

end Sys2Proof.Machine
end

section
/-! SUPPORT. The statement of `20_memory.md`: a read inside the critical section cannot tear (R68). First the low
byte as a value, then what a step does to the operation waiting at the head of `UQ`, to `PULSE_TICKS` and to
`IE` while no handler step interferes, then the statement. -/

namespace Sys2Proof.Machine

/-! ## The bytes of the copy -/

/-- Bit by bit or as a byte. -/
theorem sameLowByte_iff (a b : Half) : sameLowByte a b ↔ lowByte a = lowByte b := by
  refine ⟨fun h => BitVec.eq_of_getLsbD_eq fun k hk => ?_, fun h k hk => ?_⟩
  · simp [lowByte_getLsbD, h k hk]
  · simpa only [lowByte_getLsbD, hk, decide_true, Bool.true_and] using congrArg (·.getLsbD k) h

/-- RDPTL makes the low bytes agree, whatever the copy was (R145). -/
theorem sameLowByte_joinBytes (high : Byte) (v : Half) : sameLowByte (joinBytes high (lowByte v)) v := by
  rw [sameLowByte_iff, lowByte_joinBytes]

/-- RDPTH completes a copy whose low byte agrees (R146). -/
theorem joinBytes_of_sameLowByte {a b : Half} (h : sameLowByte a b) :
    joinBytes (highByte b) (lowByte a) = b := by
  rw [(sameLowByte_iff a b).1 h, joinBytes_self]

/-! ## A step against a waiting operation, and in the critical section -/

/-- The operation at the head of `UQ` waits, with `SNAP` as it is, or is taken off and performed. -/
theorem step_waits_or_performs {s t : State} {i : Instr} {rest : List Instr} (h : step s = .next t)
    (hr : s.takesReset = false) (hu : s.uq = i :: rest) :
    (t.uq = s.uq ∧ t.snap = s.snap) ∨ exec i { s with budget := s.budget.spend, uq := rest } = .next t := by
  rcases step_waits_or_moves h hr with ⟨-, ⟨huq, -, -, -, -, -, hsnap, -⟩, -⟩ | ⟨-, -, hnil, -⟩ |
    ⟨-, -, j, rest', hu', -, he⟩
  · exact .inl ⟨huq, hsnap⟩
  · simp [hu] at hnil
  · obtain ⟨rfl, rfl⟩ := List.cons.inj (hu.symm.trans hu')
    exact .inr he

/-- Only the handler latches a width, and it does not run while `IE = 0` (R202). -/
theorem step_keeps_pulseTicks {s t : State} (h : step s = .next t) (hr : s.takesReset = false)
    (hs : s.ie = false ∨ s.turn = .seq) : t.pulseTicks = s.pulseTicks := by
  rcases step_waits_or_moves h hr with ⟨hne, -, hpulse⟩ | ⟨-, -, -, _, _, -, -, -, rfl⟩ |
    ⟨-, -, _, _, -, hi, he⟩
  · exact hpulse (hs.resolve_right hne)
  · rfl
  · obtain ⟨⟨-, -, -, -, hpulse, -⟩, -⟩ := exec_command_frame hi he
    exact hpulse

/-- Only IRQ_EN ends the critical section (R144). -/
theorem step_keeps_ie_false {s t : State} (h : step s = .next t) (hr : s.takesReset = false)
    (hie : s.ie = false) (hen : ¬ s.performs .irqEn) : t.ie = false := by
  by_contra hne
  rcases interruptEnableHasTwoWriters s t h hr (hie ▸ hne) with ⟨-, ht⟩ | ⟨hperf, -⟩
  · exact hne ht
  · exact hen hperf

/-! ## The statement -/

/-- Settles O30: IRQ_DIS is the sequencer's own step; while `IE = 0` no step but IRQ_EN touches `IE` or
`PULSE_TICKS` (`step_keeps_ie_false`, `step_keeps_pulseTicks`), so each byte read waits or copies its byte of a
value that stands still. -/
theorem criticalSectionReadCannotTear : Obligations.CriticalSectionReadCannotTear := by
  unfold Obligations.CriticalSectionReadCannotTear
  intro s t h hr
  have hcritical (hie : s.ie = false) (hen : ¬ s.performs .irqEn) :
      t.ie = false ∧ t.pulseTicks = s.pulseTicks :=
    ⟨step_keeps_ie_false h hr hie hen, step_keeps_pulseTicks h hr (.inl hie)⟩
  refine ⟨fun ⟨ht, hhead⟩ => ?_, hcritical, fun rest hie hu => ?_, fun hu => ?_, fun rest hie hu hlow => ?_⟩
  · obtain ⟨rest, hu⟩ := List.head?_eq_some_iff.1 hhead
    rw [step_performs ht hu rfl] at h
    cases h
    exact ⟨rfl, rfl⟩
  · obtain ⟨hie', hpulse⟩ := hcritical hie (by simp [State.performs, hu])
    refine ⟨hie', hpulse, (step_waits_or_performs h hr hu).imp_right fun he => ?_⟩
    cases he
    exact ⟨rfl, sameLowByte_joinBytes _ _⟩
  · rcases step_waits_or_moves h hr with ⟨-, ⟨huq, -, -, -, -, -, hsnap, -⟩, -⟩ |
      ⟨-, -, -, w, i, hw, hd, -, rfl⟩ | ⟨-, -, i, rest, hu', -⟩
    · exact ⟨hsnap, .inl (huq.trans hu)⟩
    · exact ⟨rfl, .inr ⟨w, i, hw, hd, rfl⟩⟩
    · simp [hu] at hu'
  · obtain ⟨hie', hpulse⟩ := hcritical hie (by simp [State.performs, hu])
    refine ⟨hie', hpulse, (step_waits_or_performs h hr hu).imp_right fun he => ?_⟩
    cases he
    exact ⟨rfl, joinBytes_of_sameLowByte hlow⟩

end Sys2Proof.Machine
end

section
/-! SUPPORT. The statements of `30_encoding.md`: the encoder against the decoder (R81, R83, R84), the opcode table
and its gaps (R84, R85, R91), the operands that are refused (R86) and the words out of place (R87). First what a
format leaves of a word, then what the rows of `row` are, then the refusals, then the statements. -/

namespace Sys2Proof

/-! ## The two parts of a word: what the mask covers and the operand fields -/

/-- The places of a format's operand fields (R81); every other bit of a word of the format is fixed. -/
def Format.isOperandBit : Format → Nat → Bool
  | .N, _ => false
  | .I, k => decide (k < 16)
  | .D, k => decide (k < 4)
  | .P, k => decide (4 ≤ k) && decide (k < 7)
  | .DP, k => decide (k < 7)
  | .L, k => decide (k < 1)
  | .C, k => decide (k < 3)

/-- The operand bits the encoder packs for the fields of `w` read in a format. -/
def Format.operandBits (w : Word) : Format → BitVec 24
  | .N => 0
  | .I => packImm (immField w)
  | .D => packDigitPosition (digitField w) 0
  | .P => packDigitPosition 0 (positionField w)
  | .DP => packDigitPosition (digitField w) (positionField w)
  | .L => packLevel (levelField w)
  | .C => packLines (linesField w)

theorem Format.mask_getLsbD (fmt : Format) : ∀ k < 32, fmt.mask.getLsbD k = !fmt.isOperandBit k := by
  cases fmt <;> decide

theorem packDigitPosition_getLsbD (d : BitVec 4) (p : BitVec 3) (k : Nat) :
    (packDigitPosition d p).getLsbD k = if k < 4 then d.getLsbD k else p.getLsbD (k - 4) := by
  rw [packDigitPosition, BitVec.getLsbD_append]
  by_cases h4 : k < 4
  · simp [h4]
  · rw [BitVec.getLsbD_append]
    by_cases h7 : k - 4 < 3
    · simp [h4, h7]
    · simp [h4, h7, BitVec.getLsbD_of_ge p (k - 4) (by omega)]

/-- Packing a field puts it back where it was read from. -/
theorem Format.operandBits_getLsbD (fmt : Format) (w : Word) (k : Nat) :
    (fmt.operandBits w).getLsbD k = (fmt.isOperandBit k && w.getLsbD k) := by
  cases fmt with
  | N => simp [operandBits, isOperandBit]
  | I =>
    rw [operandBits, packImm, immField, BitVec.getLsbD_append]
    by_cases h : k < 16 <;> simp [isOperandBit, h]
  | L =>
    rw [operandBits, packLevel, levelField, BitVec.getLsbD_append]
    cases k <;> simp [isOperandBit]
  | C =>
    rw [operandBits, packLines, linesField, BitVec.getLsbD_append]
    by_cases h : k < 3 <;> simp [isOperandBit, h]
  | D => simp [operandBits, packDigitPosition_getLsbD, digitField, isOperandBit]
  | P | DP =>
    simp only [operandBits, packDigitPosition_getLsbD, digitField, positionField, isOperandBit,
      BitVec.getLsbD_extractLsb']
    by_cases h4 : k < 4
    · simp [h4, show k < 7 by omega, show ¬ 4 ≤ k by omega]
    · simp [h4, show 4 ≤ k by omega, show 4 + (k - 4) = k by omega, show k - 4 < 3 ↔ k < 7 by omega]

/-- A word of a format is its opcode and its packed fields. -/
theorem packWord_operandBits {w : Word} {fmt : Format}
    (hm : w &&& fmt.mask = (opcode w).setWidth 32 <<< 24) : packWord (opcode w) (fmt.operandBits w) = w := by
  apply BitVec.eq_of_getLsbD_eq
  intro k hk
  rw [packWord, BitVec.getLsbD_append]
  by_cases h : k < 24
  · have hfield : w.getLsbD k = true → fmt.isOperandBit k = true := by
      simpa [fmt.mask_getLsbD k hk, h] using congrArg (·.getLsbD k) hm
    rw [if_pos h, fmt.operandBits_getLsbD]
    exact Bool.and_eq_right_iff_imp.2 hfield
  · simp [h, opcode, show k - 24 < 8 by omega, show 24 + (k - 24) = k by omega]

/-- Every mask covers the opcode. -/
theorem opcode_and_mask (w : Word) (fmt : Format) : opcode (w &&& fmt.mask) = opcode w := by
  ext k hk
  have hop : fmt.isOperandBit (24 + k) = false := by
    cases fmt <;> simp only [Format.isOperandBit, Bool.and_eq_false_imp, decide_eq_false_iff_not] <;> omega
  simp [opcode, fmt.mask_getLsbD (24 + k) (by omega), hop]

theorem opcode_toNat (w : Word) : (opcode w).toNat = w.toNat / 2 ^ 24 := by
  have := w.isLt
  simp only [opcode, BitVec.extractLsb'_toNat, Nat.shiftRight_eq_div_pow]
  omega

/-! ## The rows of the table -/

/-- A row's operation holds every field of its format, so encoding it packs them all. -/
theorem encode_of_row {n : Nat} {w : Word} {fmt : Format} {i : Instr} (h : row n w = some (fmt, i)) :
    i.encodable = true ∧ encode i = packWord (BitVec.ofNat 8 n) (fmt.operandBits w) := by
  have himm : (immField w).toNat < 65536 := (immField w).isLt
  unfold row at h
  split at h <;> cases h <;> simp [Instr.encodable, encode, Format.operandBits, himm]

/-- The opcodes below 256 without a row are those R85 lists. -/
theorem row_eq_none_iff {n : Nat} (hn : n < 256) (w : Word) : row n w = none ↔ Spec.reservedOpcode n := by
  unfold row
  split
  case h_33 => simp only [Spec.reservedOpcode, true_iff]; grind
  all_goals simp [Spec.reservedOpcode]

/-- Every row is printed in the opcode table. -/
theorem opcodeRows_of_row {n : Nat} {w : Word} {fmt : Format} {i : Instr} (h : row n w = some (fmt, i)) :
    ∃ r ∈ Spec.opcodeRows, r.1 = BitVec.ofNat 32 n <<< 24 ∧ r.2.1 = fmt.mask := by
  unfold row at h
  split at h <;> cases h <;> decide

theorem positionField_eq (w : Word) : positionField w = BitVec.ofNat 3 (w.toNat / 16) := by
  simp [positionField, BitVec.extractLsb', Nat.shiftRight_eq_div_pow]

theorem levelField_eq (w : Word) : levelField w = decide (w.toNat % 2 = 1) := by
  simp [levelField, BitVec.getLsbD, Nat.testBit_zero]

/-- The match of every printed row is its opcode, with every other bit 0. -/
theorem opcodeRows_match : ∀ r ∈ Spec.opcodeRows, r.1 = (opcode r.1).setWidth 32 <<< 24 := by decide

/-- Every printed row is the row of its opcode, with its mask and its operation. -/
theorem row_of_opcodeRows (w : Word) : ∀ r ∈ Spec.opcodeRows,
    ∃ fmt, row (opcode r.1).toNat w = some (fmt, r.2.2 w) ∧ fmt.mask = r.2.1 := by
  have hrow : ∀ r ∈ Spec.opcodeRows,
      (row (opcode r.1).toNat w).map (Prod.map Format.mask id) = some (r.2.1, r.2.2 w) := by
    simp [Spec.opcodeRows, opcode, row, Format.mask, digitField, immField, linesField, positionField_eq,
      levelField_eq, BitVec.extractLsb']
  intro r hr
  obtain ⟨⟨fmt, i⟩, h, hi⟩ := Option.map_eq_some_iff.1 (hrow r hr)
  obtain ⟨hmask, hop⟩ := Prod.mk.inj hi
  exact ⟨fmt, hop ▸ h, hmask⟩

/-- A word is rejected for its opcode when there is no row for it. -/
theorem decode_reservedOpcode_iff (w : Word) :
    decode w = .error .reservedOpcode ↔ row (opcode w).toNat w = none := by
  unfold decode
  split
  · next h => simp [h]
  · next h => rw [h]; split <;> simp

namespace Machine

/-! ## Refused operands (R86) -/

theorem digitRefusal?_of_illegal {d : BitVec 4} (h : legalDigit d = false) :
    digitRefusal? d = some .digitOutOfRange := by
  simp [digitRefusal?, Config.digitMax, (legalDigit_eq_false_iff d).1 h]

theorem positionRefusal?_of_illegal {p : BitVec 3} (h : legalPosition p = false) :
    positionRefusal? p = some .positionOutOfRange := by
  revert h; revert p; decide

theorem exec_of_legal {i : Instr} (s : State) (h : i.legal = true) : ∃ t, exec i s = .next t := by
  cases i with
  | enc d =>
    have hd : d.toNat ≤ 9 := (legalDigit_iff d).1 h
    have hv := (segtab?_eq_some_iff s.params d _).2 ⟨by omega, rfl⟩
    exact ⟨_, by rw [exec, execEnc, hv]⟩
  | posSel p =>
    have hp := (positionRefusal?_eq_none_iff p).2 h
    exact ⟨_, by rw [exec, execPosSel, hp]⟩
  | showDigit d p =>
    obtain ⟨hd, hp⟩ := Bool.and_eq_true_iff.1 h
    rw [← digitRefusal?_eq_none_iff] at hd
    rw [← positionRefusal?_eq_none_iff] at hp
    exact ⟨_, by rw [exec, execShowDigit, hd, hp]⟩
  | _ => exact ⟨_, rfl⟩

theorem exec_enc_of_illegal {d : BitVec 4} (s : State) (h : legalDigit d = false) :
    exec (.enc d) s = .refused .digitOutOfRange := by
  have hnone := (segtab?_eq_none_iff s.params d).2 ((legalDigit_eq_false_iff d).1 h)
  rw [exec, execEnc, hnone]

theorem exec_posSel_of_illegal {p : BitVec 3} (s : State) (h : legalPosition p = false) :
    exec (.posSel p) s = .refused .positionOutOfRange := by
  rw [exec, execPosSel, positionRefusal?_of_illegal h]

/-- The digit is tested before the position (R107). -/
theorem exec_showDigit_of_illegal {d : BitVec 4} {p : BitVec 3} (s : State)
    (h : (legalDigit d && legalPosition p) = false) : exec (.showDigit d p) s =
      .refused (if 9 < d.toNat then .digitOutOfRange else .positionOutOfRange) := by
  cases hd : legalDigit d with
  | false => rw [exec, execShowDigit, digitRefusal?_of_illegal hd, if_pos ((legalDigit_eq_false_iff d).1 hd)]
  | true =>
    have hp : legalPosition p = false := by simpa [hd] using h
    rw [exec, execShowDigit, (digitRefusal?_eq_none_iff d).2 hd, positionRefusal?_of_illegal hp,
      if_neg (by have := (legalDigit_iff d).1 hd; omega)]

/-! ## Refused schedule items -/

theorem step_takes_item {s : State} {w : Word} {rest : List Word} (ht : s.turn = .item w rest) :
    step s = scheduleStep w { s with schedule := rest, budget := .idle } := by
  simp only [step, takeTurn, ht]

theorem scheduleStep_error {s : State} {w : Word} {e : DecodeError} (hd : decode w = .error e) :
    scheduleStep w s = .refused .reservedEncoding := by
  simp only [scheduleStep, hd]

theorem scheduleStep_command {s : State} {w : Word} {i : Instr} (hd : decode w = .ok i)
    (hi : i.isStimulus = false) : scheduleStep w s = .refused .commandInSchedule := by
  simp [scheduleStep, hd, hi]

/-! ## The statements -/

/-- Settles O1, by the round trip of each operation. -/
theorem decodeEncodeAgree : Obligations.DecodeEncodeAgree := by
  unfold Obligations.DecodeEncodeAgree
  intro i
  cases i with
  | treset => exact Laws.RoundTrip.treset
  | tstart => exact Laws.RoundTrip.tstart
  | tstop => exact Laws.RoundTrip.tstop
  | tread => exact Laws.RoundTrip.tread
  | irqDis => exact Laws.RoundTrip.irqDis
  | irqEn => exact Laws.RoundTrip.irqEn
  | rdptl => exact Laws.RoundTrip.rdptl
  | rdpth => exact Laws.RoundTrip.rdpth
  | snapshot => exact Laws.RoundTrip.snapshot
  | enc d => exact Laws.RoundTrip.enc d
  | posBlank => exact Laws.RoundTrip.posBlank
  | segOff => exact Laws.RoundTrip.segOff
  | segSet => exact Laws.RoundTrip.segSet
  | posSel p => exact Laws.RoundTrip.posSel p
  | showDigit d p => exact Laws.RoundTrip.showDigit d p
  | dispnum v => exact Laws.RoundTrip.dispnum v
  | delayUs n => exact Laws.RoundTrip.delayUs n
  | delayMs n => exact Laws.RoundTrip.delayMs n
  | trigHi => exact Laws.RoundTrip.trigHi
  | trigLo => exact Laws.RoundTrip.trigLo
  | trigger => exact Laws.RoundTrip.trigger
  | selcad => exact Laws.RoundTrip.selcad
  | conv => exact Laws.RoundTrip.conv
  | iterInc => exact Laws.RoundTrip.iterInc
  | iterClr => exact Laws.RoundTrip.iterClr
  | miCheck => exact Laws.RoundTrip.miCheck
  | mainIter => exact Laws.RoundTrip.mainIter
  | evEcho l => exact Laws.RoundTrip.evEcho l
  | evTick n => exact Laws.RoundTrip.evTick n
  | evCsel c => exact Laws.RoundTrip.evCsel c
  | evRun n => exact Laws.RoundTrip.evRun n
  | evReset => exact Laws.RoundTrip.evReset

/-- Settles O2: the operation is encoded from its opcode and the fields of the word (`encode_of_row`), and the
mask leaves nothing else in the word (`packWord_operandBits`). -/
theorem decodedWordIsItsEncoding : Obligations.DecodedWordIsItsEncoding := by
  unfold Obligations.DecodedWordIsItsEncoding
  intro w i h
  obtain ⟨fmt, hrow, hmask⟩ := decode_ok_cases h
  obtain ⟨hfits, henc⟩ := encode_of_row hrow
  rw [BitVec.ofNat_toNat, BitVec.setWidth_eq, packWord_operandBits hmask] at henc
  exact ⟨hfits, henc⟩

/-- Settles O3: a word that matches a printed row has its opcode, so it decodes by that row; a word that decodes
has a row, which is printed, and matches it. -/
theorem wordsDecodeByTheOpcodeTable : Obligations.WordsDecodeByTheOpcodeTable := by
  unfold Obligations.WordsDecodeByTheOpcodeTable
  intro w
  constructor
  · intro r hr hmatch
    obtain ⟨fmt, hrow, hmask⟩ := row_of_opcodeRows w r hr
    rw [← hmask] at hmatch
    have hop : opcode w = opcode r.1 := by rw [← hmatch, opcode_and_mask]
    rw [← hop] at hrow
    exact decode_of_row hrow (by rw [hmatch, hop, ← opcodeRows_match r hr])
  · intro hnone
    cases hd : decode w with
    | error e => exact ⟨e, rfl⟩
    | ok i =>
      obtain ⟨fmt, hrow, hmask⟩ := decode_ok_cases hd
      obtain ⟨r, hr, hmatch, hrmask⟩ := opcodeRows_of_row hrow
      rw [BitVec.ofNat_toNat] at hmatch
      exact absurd (by rw [hrmask, hmask, hmatch]) (hnone r hr)

/-- Settles O55: only ENC, POS_SEL and SHOW_DIGIT can have an illegal operand. -/
theorem legalOperationsComplete : Obligations.LegalOperationsComplete := by
  unfold Obligations.LegalOperationsComplete
  intro i s
  refine ⟨exec_of_legal s, fun h => ?_⟩
  cases i with
  | enc d => exact exec_enc_of_illegal s h
  | posSel p => exact exec_posSel_of_illegal s h
  | showDigit d p => exact exec_showDigit_of_illegal s h
  | _ => cases h

/-- Settles O4, by evaluating the decoder at each word. -/
theorem workedEncodingsDecode : Obligations.WorkedEncodingsDecode := by
  refine ⟨rfl, rfl, rfl, rfl, rfl, rfl, rfl, rfl, rfl, rfl, rfl, rfl, rfl, ?_⟩
  simp only [List.forall_mem_cons]
  exact ⟨⟨_, rfl⟩, ⟨_, rfl⟩, ⟨_, rfl⟩, ⟨_, rfl⟩, ⟨_, rfl⟩, nofun⟩

/-- Settles O5: the opcodes without a row are the listed ones (`row_eq_none_iff`), and a fetch and a schedule item
both begin with decoding the word. -/
theorem reservedOpcodesAreRefused : Obligations.ReservedOpcodesAreRefused := by
  unfold Obligations.ReservedOpcodesAreRefused
  refine ⟨fun w => ?_, fun s w e ht hu hw hd => ?_, fun s w rest e ht hd => ?_⟩
  · rw [decode_reservedOpcode_iff, row_eq_none_iff (opcode w).isLt, opcode_toNat]
  · rw [step_fetches ht hu hw, fetchWord_error hd]
  · rw [step_takes_item ht, scheduleStep_error hd]

/-- Settles O6, from the fetch of a stimulus word and the schedule's refusal of a command. -/
theorem wordsOutOfPlaceAreRefused : Obligations.WordsOutOfPlaceAreRefused := by
  unfold Obligations.WordsOutOfPlaceAreRefused
  refine ⟨fun s w i ht hu hw hd hi => ?_, fun s w rest i ht hd hi => ?_⟩
  · rw [step_fetches ht hu hw, fetchWord_stimulus hd hi]
  · rw [step_takes_item ht, scheduleStep_command hd hi]

end Machine
end Sys2Proof
end

section
/-! SUPPORT. The statements of `40_display.md` about single operations: the words of the display operations, the digit
driver's micro-operations (R100 to R106), and the digits DISPNUM expands to (R108, R110, R111). -/

namespace Sys2Proof

/-! ## The words of the display operations -/

/-- A word of format DP as the spec writes it, `op << 24 | p << 4 | d`; formats D and P are its cases `p = 0`
and `d = 0`. -/
theorem or_digitPosition (op : Byte) (d : BitVec 4) (p : BitVec 3) :
    (op ++ (0 : BitVec 24)) ||| (p.setWidth 32 <<< 4) ||| d.setWidth 32 = packWord op (packDigitPosition d p) := by
  apply BitVec.eq_of_getLsbD_eq
  intro k hk
  rw [packWord, BitVec.getLsbD_append, packDigitPosition_getLsbD, BitVec.getLsbD_or, BitVec.getLsbD_or,
    BitVec.getLsbD_append, BitVec.getLsbD_shiftLeft, BitVec.getLsbD_setWidth, BitVec.getLsbD_setWidth]
  by_cases h4 : k < 4
  · simp [h4, hk, show k < 24 by omega]
  · have hd : d.getLsbD k = false := BitVec.getLsbD_of_ge d k (by omega)
    by_cases h24 : k < 24
    · simp [h4, h24, hk, hd, show k - 4 < 32 by omega]
    · simp [h4, h24, hk, hd, BitVec.getLsbD_of_ge p (k - 4) (by omega)]

namespace Machine

/-! ## The digits of a number -/

/-- The SHOW_DIGIT that strobes a digit at a position. -/
def showPair (r : Nat × Nat) : Instr := .showDigit (BitVec.ofNat 4 r.1) (BitVec.ofNat 3 r.2)

/-- The strobes R110 and the clamp of R108 ask of `DISPNUM v`. -/
def shownPairs (v : Half) : List (Nat × Nat) :=
  digitPairs (min v.toNat 9999) 1 (decimalLength (min v.toNat 9999))

theorem decimalLength_bounds {u : Nat} (h : u ≤ 9999) :
    1 ≤ decimalLength u ∧ decimalLength u ≤ 4 ∧ u < 10 ^ decimalLength u ∧
      (u ≠ 0 → 10 ^ (decimalLength u - 1) ≤ u) := by
  unfold decimalLength
  split
  · omega
  · split
    · omega
    · split <;> omega

/-- The loop of R108 at position `pos`, where `n / 10 ^ (pos - 1)` is left of the number and has `count` digits,
queues these digits of the number. -/
theorem digitLoop_eq (n : Nat) {count pos rounds : Nat} (hpos : 1 ≤ pos) (hfit : pos + count ≤ 5)
    (hrounds : count < rounds) (hlt : n / 10 ^ (pos - 1) < 10 ^ count)
    (hle : 0 < count → 10 ^ (count - 1) ≤ n / 10 ^ (pos - 1)) :
    digitLoop rounds (n / 10 ^ (pos - 1)) pos = (digitPairs n pos count).map showPair := by
  induction count generalizing pos rounds with
  | zero =>
    obtain ⟨rounds, rfl⟩ := Nat.exists_eq_add_of_lt hrounds
    have hzero : n / 10 ^ (pos - 1) = 0 := by simpa using hlt
    simp [digitLoop, digitPairs, hzero]
  | succ count ih =>
    obtain ⟨rounds, rfl⟩ : ∃ r, rounds = r + 1 := ⟨rounds - 1, by omega⟩
    have hnext : n / 10 ^ (pos - 1) / 10 = n / 10 ^ (pos + 1 - 1) := by
      rw [Nat.div_div_eq_div_mul, ← pow_succ, Nat.sub_add_cancel hpos, Nat.add_sub_cancel]
    have hge : 10 ^ count ≤ n / 10 ^ (pos - 1) := hle (Nat.succ_pos _)
    have hne : n / 10 ^ (pos - 1) ≠ 0 := by have := Nat.pow_pos (n := count) (show 0 < 10 by decide); omega
    rw [digitLoop, if_pos ⟨hne, by simp only [Config.nPos]; omega⟩, hnext, digitPairs, List.map_cons,
      ih (by omega) (by omega) (by omega)]
    · rfl
    · rw [← hnext, Nat.div_lt_iff_lt_mul (by decide), ← pow_succ]
      exact hlt
    · intro hcount
      rw [← hnext, Nat.le_div_iff_mul_le (by decide), ← pow_succ, Nat.sub_add_cancel hcount]
      exact hge

/-- From position 1 the loop queues all the digits of a positive number of at most four. -/
theorem digitLoop_all {u : Nat} (hu : u ≤ 9999) (hne : u ≠ 0) :
    digitLoop 5 u 1 = (digitPairs u 1 (decimalLength u)).map showPair := by
  obtain ⟨-, hlen, hlt, hle⟩ := decimalLength_bounds hu
  simpa using digitLoop_eq u (count := decimalLength u) (pos := 1) (rounds := 5) (by decide) (by omega)
    (by omega) (by simpa using hlt) (fun _ => by simpa using hle hne)

/-- The list DISPNUM pushes is one SHOW_DIGIT for each decimal digit of the clamped number. -/
theorem digitStrobes_eq (v : Half) : digitStrobes v = (shownPairs v).map showPair := by
  show (if min v.toNat 9999 = 0 then [Instr.showDigit 0 1] else digitLoop 5 (min v.toNat 9999) 1) = _
  rw [shownPairs]
  split
  · next hu => rw [hu]; rfl
  · next hu => exact digitLoop_all (Nat.min_le_right _ _) hu

/-! ## The meanings -/

theorem exec_enc {d : BitVec 4} {s : State} {v : Byte} (hv : segtab? s.params d = some v) :
    exec (.enc d) s = .next { s with pat := v } := by
  rw [exec, execEnc, hv]; rfl

theorem exec_posSel {p : BitVec 3} (s : State) (hp : legalPosition p = true) :
    exec (.posSel p) s = .next { s with pos := positionPattern p } := by
  rw [exec, execPosSel, (positionRefusal?_eq_none_iff p).2 hp]; rfl

theorem exec_showDigit {d : BitVec 4} {p : BitVec 3} (s : State) (hd : legalDigit d = true)
    (hp : legalPosition p = true) : exec (.showDigit d p) s = .next { s with
      uq := [.posBlank, .segOff, .enc d, .segSet, .posSel p, .delayMs s.params.settleMs] ++ s.uq } := by
  rw [exec, execShowDigit, (digitRefusal?_eq_none_iff d).2 hd, (positionRefusal?_eq_none_iff p).2 hp]; rfl

theorem exec_dispnum (v : Half) (s : State) :
    exec (.dispnum v) s = .next { s with uq := (shownPairs v).map showPair ++ s.uq } := by
  rw [exec, execDispnum, digitStrobes_eq, State.pushFront]

/-- The printed lines are the pattern of a legal position. -/
theorem positionLines_pattern : ∀ r ∈ Spec.positionLines,
    legalPosition r.1 = true ∧ positionPattern r.1 = r.2 := by
  simp only [Spec.positionLines, List.forall_mem_cons]
  exact ⟨⟨rfl, rfl⟩, ⟨rfl, rfl⟩, ⟨rfl, rfl⟩, ⟨rfl, rfl⟩, nofun⟩

/-! ## The statements -/

/-- Settles O37: the loop of DISPNUM queues the decimal digits of the clamped number (`digitStrobes_eq`). -/
theorem dispnumExpandsToItsDigits : Obligations.DispnumExpandsToItsDigits := by
  unfold Obligations.DispnumExpandsToItsDigits
  refine ⟨fun v => ?_, fun s v => exec_dispnum v s⟩
  exact (congrArg decode (or_imm 0x29 v)).trans (Laws.RoundTrip.dispnum v rfl)

/-- Settles O38: above 9999 the clamp leaves the same number to show. -/
theorem largeNumbersShowAsTheClamp : Obligations.LargeNumbersShowAsTheClamp := by
  unfold Obligations.LargeNumbersShowAsTheClamp
  intro s v hv
  have hclamp : shownPairs v = shownPairs 9999 := by
    rw [shownPairs, shownPairs, Nat.min_eq_right hv.le, show (9999 : Half).toNat = 9999 from rfl, Nat.min_self]
  rw [exec_dispnum, exec_dispnum, hclamp]

/-- Settles O32, by whether the table has the entry. -/
theorem encodeLooksUpTheTable : Obligations.EncodeLooksUpTheTable := by
  unfold Obligations.EncodeLooksUpTheTable
  refine ⟨fun d => ?_, fun s d => ⟨fun hd => ?_, fun hd => ?_⟩⟩
  · have hword := or_digitPosition 0x20 d 0
    rw [show (0 : BitVec 3).setWidth 32 <<< 4 = 0#32 from rfl, BitVec.or_zero] at hword
    exact (congrArg decode hword).trans (Laws.RoundTrip.enc d rfl)
  · exact exec_enc ((segtab?_eq_some_iff s.params d _).2 ⟨hd, rfl⟩)
  · exact exec_enc_of_illegal s ((legalDigit_eq_false_iff d).2 hd)

/-- Settles O33: each micro-operation writes its one output, POS_SEL after testing its operand. -/
theorem digitDriverLines : Obligations.DigitDriverLines := by
  unfold Obligations.DigitDriverLines
  refine ⟨⟨rfl, fun _ => rfl⟩, ⟨rfl, fun _ => rfl⟩, ⟨rfl, fun _ => rfl⟩, fun p => ?_, fun s r hr => ?_,
    fun s p hp => ?_⟩
  · have hword := or_digitPosition 0x24 0 p
    rw [show (0 : BitVec 4).setWidth 32 = 0#32 from rfl, BitVec.or_zero] at hword
    exact (congrArg decode hword).trans (Laws.RoundTrip.posSel p rfl)
  · obtain ⟨hlegal, hlines⟩ := positionLines_pattern r hr
    rw [exec_posSel s hlegal, hlines]
  · exact exec_posSel_of_illegal s ((legalPosition_eq_false_iff p).2 hp)

/-- Settles O34: a SEQ step is enabled at `DLY = 0` only (R9), and it is taken only where it is enabled. -/
theorem delaysCountTicks : Obligations.DelaysCountTicks := by
  unfold Obligations.DelaysCountTicks
  have hwaits (s : State) (hdly : 0 < s.dly) : ¬ s.enabled .seq := fun ⟨_, hzero, _⟩ => by omega
  refine ⟨fun n => ?_, fun n => ?_, fun _ _ => rfl, fun _ _ => rfl, fun s hdly => ⟨hwaits s hdly, fun ht => ?_⟩,
    fun s hdly => ?_⟩
  · have hdec := Laws.RoundTrip.delayUs n.toNat (decide_eq_true n.isLt)
    rw [encode, BitVec.ofNat_toNat, BitVec.setWidth_eq, ← or_imm] at hdec
    exact hdec
  · have hdec := Laws.RoundTrip.delayMs n.toNat (decide_eq_true n.isLt)
    rw [encode, BitVec.ofNat_toNat, BitVec.setWidth_eq, ← or_imm] at hdec
    exact hdec
  · have henabled := stepsTakenAreEnabled s
    rw [ht] at henabled
    exact hwaits s hdly henabled
  · rw [State.tick_eq]
    exact Nat.sub_add_cancel hdly

end Machine
end Sys2Proof
end

section
/-! SUPPORT. The statements of `40_display.md` about SHOW_DIGIT and DISPNUM whatever other agents do in between (R107,
R109, R110). First one step against an expansion under way, then the strobes that an expansion still owes, which
every step either keeps or pays. -/

namespace Sys2Proof.Machine

/-! ## One step against the queue and the display -/

/-- What the digit driver works on stands still from `s` to `t`: the queue, the display registers, the
parameters. -/
def State.SameDisplay (s t : State) : Prop :=
  t.uq = s.uq ∧ t.pos = s.pos ∧ t.seg = s.seg ∧ t.pat = s.pat ∧ t.params = s.params

/-- With an operation at the head of `UQ` a step leaves the queue and the display alone, or it is the
sequencer's and performs the operation. -/
theorem step_keepsDisplay_or_performs {s t : State} {i : Instr} {rest : List Instr} (h : step s = .next t)
    (hr : s.takesReset = false) (hu : s.uq = i :: rest) :
    (s.turn ≠ .seq ∧ s.SameDisplay t) ∨
      (s.turn = .seq ∧ exec i { s with budget := s.budget.spend, uq := rest } = .next t) := by
  rcases step_waits_or_moves h hr with
    ⟨ht, ⟨huq, -, -, hpos, hseg, hpat, -, -, -, -, -, hparams, -⟩, -⟩ | ⟨-, -, hnil, -⟩ |
    ⟨ht, -, j, rest', hu', -, he⟩
  · exact .inl ⟨ht, huq, hpos, hseg, hpat, hparams⟩
  · simp [hu] at hnil
  · obtain ⟨rfl, rfl⟩ := List.cons.inj (hu.symm.trans hu')
    exact .inr ⟨ht, he⟩

/-- An operation that is not refused has legal operands (R86). -/
theorem legal_of_exec {i : Instr} {s t : State} (h : exec i s = .next t) : i.legal = true := by
  by_contra hi
  have hrefused := (legalOperationsComplete i s).2 (Bool.eq_false_of_not_eq_true hi)
  rw [h] at hrefused
  cases hrefused

/-- The strobe of a POS_SEL (R109). -/
theorem State.strobe?_posSel {s : State} {p : BitVec 3} {rest : List Instr} (ht : s.turn = .seq)
    (hu : s.uq = .posSel p :: rest) (hp : legalPosition p = true) :
    s.strobe? = s.shownDigit?.map fun d => (d, p.toNat) := by
  simp [State.strobe?, ht, hu, (positionRefusal?_eq_none_iff p).2 hp]

/-! ## The phases of the digit driver -/

/-- A phase is a matter of the queue, the display registers and the parameters. -/
theorem State.driverPhase.of_sameDisplay {s t : State} {d : BitVec 4} {p : BitVec 3} {rest : List Instr} {n : Nat}
    (hs : s.driverPhase d p rest n) (hst : s.SameDisplay t) : t.driverPhase d p rest n := by
  obtain ⟨huq, hpos, hseg, hpat, hparams⟩ := hst
  simpa only [State.driverPhase, huq, hpos, hseg, hpat, hparams] using hs

/-- Before its end a phase has an operation at the head of the queue. -/
theorem State.driverPhase.uq_eq_cons {s : State} {d : BitVec 4} {p : BitVec 3} {rest : List Instr} {n : Nat}
    (hs : s.driverPhase d p rest n) (hn : n ≤ 5) : ∃ i tail, s.uq = i :: tail := by
  refine List.exists_cons_of_length_pos ?_
  rw [hs.1, List.length_append, List.length_drop]
  simp only [List.length_cons, List.length_nil]
  omega

/-- Performing the operation at the head goes one phase further. -/
theorem State.driverPhase.performs {s t : State} {d : BitVec 4} {p : BitVec 3} {rest tail : List Instr} {n : Nat}
    {i : Instr} {b : Budget} (hs : s.driverPhase d p rest n) (hn : n ≤ 5) (hu : s.uq = i :: tail)
    (he : exec i { s with budget := b, uq := tail } = .next t) :
    t.driverPhase d p rest (n + 1) ∧ (n = 5 → t.dly = s.params.settleMs * 1000 * s.params.ticksPerUs) := by
  obtain ⟨huq, hoff, hdark, hpat, hseg, hpos⟩ := hs
  rw [hu] at huq
  interval_cases n <;> obtain ⟨rfl, rfl⟩ := List.cons.inj huq
  · cases he; simp [State.driverPhase]
  · cases he; simp [State.driverPhase, hoff]
  · cases exec_command_effect rfl he with
    | expand hk => cases hk
    | enc hv => simpa [State.driverPhase, hoff, hdark] using hv
  · cases he; simpa [State.driverPhase, hoff] using hpat
  · cases exec_command_effect rfl he with
    | expand hk => cases hk
    | posSel => simpa [State.driverPhase, hseg] using hpat
  · cases he
    simpa [State.driverPhase, hseg, millisecondTicks] using And.intro (hpat (by decide)) (hpos le_rfl)

/-- One step of an expansion under way: another agent moves and the phase stays, or the sequencer takes it one
further, after the last phase with the settle delay loaded. -/
theorem State.driverPhase.advances {s t : State} {d : BitVec 4} {p : BitVec 3} {rest : List Instr} {n : Nat}
    (hs : s.driverPhase d p rest n) (hn : n ≤ 5) (h : step s = .next t) (hr : s.takesReset = false) :
    (s.turn ≠ .seq ∧ t.driverPhase d p rest n) ∨
      (s.turn = .seq ∧ t.driverPhase d p rest (n + 1) ∧
        (n = 5 → t.dly = s.params.settleMs * 1000 * s.params.ticksPerUs)) := by
  obtain ⟨i, tail, hu⟩ := hs.uq_eq_cons hn
  exact (step_keepsDisplay_or_performs h hr hu).imp (.imp_right hs.of_sameDisplay) (.imp_right (hs.performs hn hu))

/-- The one strobe of an expansion (R109) is the POS_SEL of the fifth step, where the segment lines show the
digit's entry. -/
theorem State.driverPhase.strobe? {s t : State} {d : BitVec 4} {p : BitVec 3} {rest : List Instr} {n : Nat}
    (hs : s.driverPhase d p rest n) (hn : n ≤ 5) (hw : s.params.wf) (h : step s = .next t)
    (hr : s.takesReset = false) :
    s.strobe? = if n = 4 ∧ s.turn = .seq then some (d.toNat, p.toNat) else none := by
  obtain ⟨huq, -, -, hpat, hseg, -⟩ := hs
  split
  · next hfour =>
    obtain ⟨rfl, ht⟩ := hfour
    rcases step_keepsDisplay_or_performs h hr huq with ⟨hne, -⟩ | ⟨-, he⟩
    · exact absurd ht hne
    · have hshown : segtab? s.params d = some s.seg := by rw [hseg le_rfl]; exact hpat (by decide)
      rw [State.strobe?_posSel ht huq (legal_of_exec he), State.shownDigit?_eq hw hshown, Option.map_some]
  · next hfour =>
    refine State.strobe?_eq_none fun ht q tail hu => hfour ⟨?_, ht⟩
    rw [hu] at huq
    interval_cases n <;> simp at huq ⊢

/-- Settles O57: at the head of the queue SHOW_DIGIT waits or expands to the first phase, and each phase is kept
or taken one further by every step (`State.driverPhase.advances`), strobing in the fifth only. -/
theorem showDigitInEveryInterleaving : Obligations.ShowDigitInEveryInterleaving := by
  unfold Obligations.ShowDigitInEveryInterleaving
  intro s t d p rest h hr
  refine ⟨fun hu => ?_, fun n hn hs => ⟨?_, fun hw => hs.strobe? hn hw h hr⟩⟩
  · have hstrobe : s.strobe? = none := State.strobe?_eq_none fun _ q tail hu' => by simp [hu] at hu'
    rcases step_keepsDisplay_or_performs h hr hu with ⟨-, huq, hpos, hseg, hpat, -⟩ | ⟨-, he⟩
    · exact ⟨hpos, hseg, hpat, hstrobe, .inl huq⟩
    · obtain ⟨hd, hp⟩ := Bool.and_eq_true_iff.1 (legal_of_exec he)
      rw [exec_showDigit _ hd hp] at he
      cases he
      exact ⟨rfl, rfl, rfl, hstrobe, .inr (by simp [State.driverPhase])⟩
  · exact (hs.advances hn h hr).imp And.right And.right

/-! ## Runs, step by step -/

theorem SafeRun.zero_iff {s t : State} : SafeRun 0 s t ↔ s = t :=
  ⟨fun h => Host.Outcome.next.inj h, congrArg Host.Outcome.next⟩

theorem coreRun_succ_iff (M : Host.Core) {k : Nat} {s t : M.State} :
    M.run (k + 1) s = .next t ↔ ∃ u, M.step s = .next u ∧ M.run k u = .next t := by
  rw [Host.Core.run]
  cases M.step s <;> simp

theorem SafeRun.succ_iff {k : Nat} {s t : State} :
    SafeRun (k + 1) s t ↔ ∃ u, step s = .next u ∧ SafeRun k u t :=
  coreRun_succ_iff core

theorem strobes_succ {s u : State} (k : Nat) (h : step s = .next u) :
    strobes (k + 1) s = s.strobe?.toList ++ strobes k u := by
  rw [strobes, h]

/-! ## The strobes that are owed -/

/-- A digit and a position that exist. -/
def LegalPair (r : Nat × Nat) : Prop := r.1 ≤ 9 ∧ 1 ≤ r.2 ∧ r.2 ≤ 4

theorem digitPairs_legal {n pos count : Nat} (hpos : 1 ≤ pos) (hfit : pos + count ≤ 5) :
    ∀ r ∈ digitPairs n pos count, LegalPair r := by
  induction count generalizing pos with
  | zero => exact nofun
  | succ count ih =>
    rw [digitPairs, List.forall_mem_cons]
    exact ⟨⟨Nat.le_of_lt_succ (Nat.mod_lt _ (by decide)), hpos, by omega⟩, ih (by omega) (by omega)⟩

theorem shownPairs_legal (v : Half) : ∀ r ∈ shownPairs v, LegalPair r := by
  obtain ⟨-, hlen, -⟩ := decimalLength_bounds (Nat.min_le_right v.toNat 9999)
  exact digitPairs_legal le_rfl (by omega)

/-- The operands of `showPair r` are the pair itself. -/
theorem toNat_showPair {r : Nat × Nat} (hr : LegalPair r) :
    ((BitVec.ofNat 4 r.1).toNat, (BitVec.ofNat 3 r.2).toNat) = r := by
  obtain ⟨hd, -, hp⟩ := hr
  rw [BitVec.toNat_ofNat, BitVec.toNat_ofNat, Nat.mod_eq_of_lt (by omega), Nat.mod_eq_of_lt (by omega)]

/-- `s.Owes rest l`: before the queue is back to `rest` the strobes `l` are to come, from a DISPNUM not yet
expanded, from the SHOW_DIGITs queued, or from one under way (up to its fifth step) and those behind it. -/
inductive State.Owes (s : State) (rest : List Instr) : List (Nat × Nat) → Prop
  | number {v : Half} (hu : s.uq = .dispnum v :: rest) : Owes s rest (shownPairs v)
  | digits {l : List (Nat × Nat)} (hl : ∀ r ∈ l, LegalPair r) (hu : s.uq = l.map showPair ++ rest) : Owes s rest l
  | underWay {r : Nat × Nat} {l : List (Nat × Nat)} {n : Nat} (hr : LegalPair r) (hl : ∀ q ∈ l, LegalPair q)
      (hn : n ≤ 5) (hs : s.driverPhase (BitVec.ofNat 4 r.1) (BitVec.ofNat 3 r.2) (l.map showPair ++ rest) n) :
      Owes s rest ((if n ≤ 4 then [r] else []) ++ l)

/-- When the queue is back, nothing is owed. -/
theorem State.Owes.eq_nil {s : State} {rest : List Instr} {l : List (Nat × Nat)} (hs : s.Owes rest l)
    (hu : s.uq = rest) : l = [] := by
  cases hs with
  | number hv => exact absurd (hv.symm.trans hu) (List.cons_ne_self _ _)
  | digits hl hq => simpa using hu.symm.trans hq
  | underWay hr hl hn hs =>
    have hlen := congrArg List.length (hu.symm.trans hs.1)
    simp only [List.length_append, List.length_drop, List.length_cons, List.length_nil] at hlen
    omega

/-- Every step keeps what is owed or pays the first of it. -/
theorem State.Owes.pays {s t : State} {rest : List Instr} {l : List (Nat × Nat)} (hs : s.Owes rest l)
    (hw : s.params.wf) (h : step s = .next t) (hr : s.takesReset = false) (hu : s.uq ≠ rest) :
    ∃ l', t.Owes rest l' ∧ l = s.strobe?.toList ++ l' := by
  cases hs with
  | @number v hv =>
    have hstrobe : s.strobe? = none := State.strobe?_eq_none fun _ q tail hu' => by simp [hv] at hu'
    rw [hstrobe]
    refine ⟨_, ?_, rfl⟩
    rcases step_keepsDisplay_or_performs h hr hv with ⟨-, huq, -⟩ | ⟨-, he⟩
    · exact .number (huq.trans hv)
    · rw [exec_dispnum] at he
      cases he
      exact .digits (shownPairs_legal v) rfl
  | @digits l hl hq =>
    cases l with
    | nil => exact absurd hq hu
    | cons r l =>
      obtain ⟨hr', hl'⟩ := List.forall_mem_cons.1 hl
      obtain ⟨-, -, -, hstrobe, huq⟩ := (showDigitInEveryInterleaving s t _ _ _ h hr).1 hq
      rw [hstrobe]
      refine ⟨_, ?_, rfl⟩
      rcases huq with huq | hphase
      · exact .digits hl (huq.trans hq)
      · exact .underWay hr' hl' (Nat.zero_le 5) hphase
  | @underWay r l n hr' hl hn hs =>
    rw [hs.strobe? hn hw h hr, toNat_showPair hr']
    rcases hs.advances hn h hr with ⟨ht, hphase⟩ | ⟨ht, hphase, -⟩
    · rw [if_neg (show ¬ (n = 4 ∧ s.turn = .seq) from fun hfour => ht hfour.2)]
      exact ⟨_, .underWay hr' hl hn hphase, rfl⟩
    · rcases show n < 4 ∨ n = 4 ∨ n = 5 by omega with hlt | rfl | rfl
      · exact ⟨_, .underWay hr' hl (by omega) hphase, by simp [hlt, hlt.ne, hlt.le]⟩
      · exact ⟨_, .underWay hr' hl (by omega) hphase, by simp [ht]⟩
      · exact ⟨l, .digits hl hphase.1, rfl⟩

/-- Along a run that has not come to its end the strobes made and those still owed are the ones owed at first. -/
theorem State.Owes.run {k : Nat} {s t : State} {rest : List Instr} {l : List (Nat × Nat)} (hs : s.Owes rest l)
    (hw : s.params.wf) (h : SafeRun k s t)
    (hbusy : ∀ j < k, ∀ u, SafeRun j s u → u.takesReset = false ∧ rest.length < u.uq.length) :
    ∃ l', t.Owes rest l' ∧ l = strobes k s ++ l' := by
  induction k generalizing s l with
  | zero => exact ⟨l, SafeRun.zero_iff.1 h ▸ hs, rfl⟩
  | succ k ih =>
    obtain ⟨u, hstep, hrun⟩ := SafeRun.succ_iff.1 h
    obtain ⟨hr, hlong⟩ := hbusy 0 (Nat.succ_pos k) s (SafeRun.zero_iff.2 rfl)
    obtain ⟨l₁, hu, rfl⟩ := hs.pays hw hstep hr fun hq => by simp [hq] at hlong
    obtain ⟨hparams, -⟩ := parametersNeverChange s u hstep
    obtain ⟨l₂, ht, rfl⟩ := ih hu (hparams ▸ hw) hrun fun j hj v hv =>
      hbusy (j + 1) (by omega) v (SafeRun.succ_iff.2 ⟨u, hstep, hv⟩)
    exact ⟨l₂, ht, by rw [strobes_succ k hstep, List.append_assoc]⟩

/-- Settles O58: DISPNUM owes the decimal digits of its number, and the strobes of the run pay them from the
front (`State.Owes.run`). -/
theorem dispnumStrobesInEveryInterleaving : Obligations.DispnumStrobesInEveryInterleaving := by
  unfold Obligations.DispnumStrobesInEveryInterleaving
  intro s t v rest k hw hu h hbusy
  obtain ⟨l, ht, hl⟩ := (State.Owes.number hu).run hw h hbusy
  change _ <+: shownPairs v ∧ (_ → _ = shownPairs v)
  rw [hl]
  exact ⟨⟨l, rfl⟩, fun hq => by rw [ht.eq_nil hq, List.append_nil]⟩

end Sys2Proof.Machine
end

section
/-! SUPPORT. The statements of `40_display.md` about the free run (log 5): the seven steps of a SHOW_DIGIT (R107) and
DISPNUM to its end (R108, R110). First one step of a unit left alone, then runs put together with what they strobe. -/

namespace Sys2Proof.Machine

/-! ## One step of a unit left alone -/

theorem State.quiet.turn_seq {s : State} {i : Instr} {rest : List Instr} (hq : s.quiet) (hd : s.dly = 0)
    (hu : s.uq = i :: rest) : s.turn = .seq := by
  rw [State.turn_quiet hq, if_pos ((State.seqReady_eq_true_iff s).2 ⟨hd, .inl (by simp [hu])⟩)]

/-- With no delay running the sequencer performs the head of the queue. -/
theorem State.quiet.step_performs {s : State} {i : Instr} {rest : List Instr} (hq : s.quiet) (hd : s.dly = 0)
    (hu : s.uq = i :: rest) (hi : i.isStimulus = false) : step s = exec i { s with uq := rest } := by
  rw [Machine.step_performs (hq.turn_seq hd hu) hu hi]
  obtain ⟨-, -, -, hb⟩ := hq
  rw [hb, Budget.spend, ← hb]

/-- While a delay runs the clock ticks. -/
theorem State.quiet.turn_clk {s : State} (hq : s.quiet) (hd : 0 < s.dly) : s.turn = .clk := by
  rw [State.turn_quiet hq, if_neg fun hready => hd.ne' ((State.seqReady_eq_true_iff s).1 hready).1]

theorem State.quiet.step_ticks {s : State} (hq : s.quiet) (hd : 0 < s.dly) : step s = .next s.tick := by
  rw [step, takeTurn, hq.turn_clk hd]
  obtain ⟨-, -, -, hb⟩ := hq
  simp only [← hb]

/-! ## Runs with what they strobe -/

/-- `k` steps from `s` end in `t`, and they strobe `l`. -/
def StrobingRun (k : Nat) (s : State) (l : List (Nat × Nat)) (t : State) : Prop :=
  SafeRun k s t ∧ strobes k s = l

theorem StrobingRun.refl (s : State) : StrobingRun 0 s [] s := ⟨SafeRun.zero_iff.2 rfl, rfl⟩

theorem StrobingRun.cons {k : Nat} {s u t : State} {l : List (Nat × Nat)} (h : step s = .next u)
    (hrun : StrobingRun k u l t) : StrobingRun (k + 1) s (s.strobe?.toList ++ l) t := by
  obtain ⟨hsafe, rfl⟩ := hrun
  exact ⟨SafeRun.succ_iff.2 ⟨u, h, hsafe⟩, strobes_succ k h⟩

theorem StrobingRun.append {j k : Nat} {s u t : State} {l m : List (Nat × Nat)} (hsu : StrobingRun j s l u)
    (hut : StrobingRun k u m t) : StrobingRun (j + k) s (l ++ m) t := by
  obtain ⟨hsafe, rfl⟩ := hsu
  induction j generalizing s with
  | zero =>
    obtain rfl := SafeRun.zero_iff.1 hsafe
    rwa [Nat.zero_add]
  | succ j ih =>
    obtain ⟨v, hstep, hrest⟩ := SafeRun.succ_iff.1 hsafe
    rw [strobes_succ j hstep, List.append_assoc, Nat.succ_add]
    exact .cons hstep (ih hrest)

/-- The sequencer's step with anything but a POS_SEL, and the run that follows. -/
theorem StrobingRun.performs {k : Nat} {s u t : State} {i : Instr} {rest : List Instr} {l : List (Nat × Nat)}
    (hq : s.quiet) (hd : s.dly = 0) (hu : s.uq = i :: rest) (hi : i.isStimulus = false) (hp : ∀ p, i ≠ .posSel p)
    (he : exec i { s with uq := rest } = .next u) (h : StrobingRun k u l t) : StrobingRun (k + 1) s l t := by
  have hstrobe : s.strobe? = none :=
    State.strobe?_eq_none fun _ p tail hu' => hp p (List.cons.inj (hu.symm.trans hu')).1
  simpa [hstrobe] using h.cons ((hq.step_performs hd hu hi).trans he)

/-- What the segment lines show is a matter of the table and of the lines. -/
theorem State.shownDigit?_congr {s t : State} (hparams : s.params = t.params) (hseg : s.seg = t.seg) :
    s.shownDigit? = t.shownDigit? := by
  rw [State.shownDigit?, State.shownDigit?, hparams, hseg]

/-- The sequencer's step with a POS_SEL strobes what the segment lines show (R109). -/
theorem StrobingRun.posSel {k : Nat} {s t : State} {p : BitVec 3} {rest : List Instr} {l : List (Nat × Nat)}
    {shown : Option Nat} (hq : s.quiet) (hd : s.dly = 0) (hu : s.uq = .posSel p :: rest)
    (hp : legalPosition p = true) (hshown : s.shownDigit? = shown)
    (h : StrobingRun k { s with uq := rest, pos := positionPattern p } l t) :
    StrobingRun (k + 1) s ((shown.map fun d => (d, p.toNat)).toList ++ l) t := by
  rw [← hshown, ← State.strobe?_posSel (hq.turn_seq hd hu) hu hp]
  exact .cons ((hq.step_performs hd hu rfl).trans (exec_posSel _ hp)) h

/-- The ticks of a delay, as long as it runs. -/
theorem StrobingRun.ticks {s : State} (hq : s.quiet) (k : Nat) (hk : k ≤ s.dly) :
    StrobingRun k s [] (s.ticks k) := by
  induction k with
  | zero => rw [State.ticks_zero]; exact .refl s
  | succ k ih =>
    have hqk : (s.ticks k).quiet := hq
    have hdk : 0 < (s.ticks k).dly := Nat.sub_pos_of_lt hk
    have hstrobe : (s.ticks k).strobe? = none := State.strobe?_eq_none (by simp [hqk.turn_clk hdk])
    rw [State.ticks_succ]
    simpa [hstrobe] using (ih (by omega)).append (.cons (hqk.step_ticks hdk) (.refl _))

/-- A run, and after it the wait for the delay it leaves. -/
theorem StrobingRun.waits {k : Nat} {s t : State} {l : List (Nat × Nat)} (h : StrobingRun k s l t) (hq : t.quiet) :
    StrobingRun (k + t.dly) s l (t.ticks t.dly) := by
  simpa using h.append (.ticks hq t.dly le_rfl)

/-! ## SHOW_DIGIT and DISPNUM in the free run -/

/-- The seven steps of a SHOW_DIGIT, from its head to the settle delay. -/
theorem showDigit_run {s : State} {d : BitVec 4} {p : BitVec 3} {v : Byte} {rest : List Instr}
    {shown : Option Nat} (hq : s.quiet) (hd : s.dly = 0) (hu : s.uq = .showDigit d p :: rest)
    (hv : segtab? s.params d = some v) (hp : legalPosition p = true)
    (hshown : ({ s with seg := v } : State).shownDigit? = shown) :
    StrobingRun 7 s (shown.map fun d => (d, p.toNat)).toList { s with
      uq := rest, pat := v, seg := v, pos := positionPattern p
      dly := s.params.settleMs * 1000 * s.params.ticksPerUs } := by
  have hdigit : legalDigit d = true := by
    obtain ⟨hlt, -⟩ := (segtab?_eq_some_iff s.params d v).1 hv
    exact (legalDigit_iff d).2 (Nat.le_of_lt_succ hlt)
  rw [← List.append_nil (Option.toList _)]
  refine .performs hq hd hu rfl nofun (exec_showDigit _ hdigit hp) ?_
  refine .performs hq hd rfl rfl nofun rfl ?_
  refine .performs hq hd rfl rfl nofun rfl ?_
  refine .performs hq hd rfl rfl nofun (exec_enc hv) ?_
  refine .performs hq hd rfl rfl nofun rfl ?_
  refine .posSel hq hd rfl hp ((State.shownDigit?_congr rfl rfl).trans hshown) ?_
  exact .performs hq hd rfl rfl nofun rfl (.refl _)

/-- A SHOW_DIGIT comes to its end, the settle delay included, and strobes its digit. -/
theorem showPair_run {s : State} {r : Nat × Nat} {rest : List Instr} (hr : LegalPair r) (hq : s.quiet)
    (hd : s.dly = 0) (hw : s.params.wf) (hu : s.uq = showPair r :: rest) :
    ∃ k t, StrobingRun k s [r] t ∧ t.quiet ∧ t.dly = 0 ∧ t.params = s.params ∧ t.uq = rest ∧
      t.pcidx = s.pcidx := by
  have hoperands := toNat_showPair hr
  obtain ⟨hdigit, hpos⟩ := Prod.mk.inj hoperands
  obtain ⟨hr9, hr4⟩ := hr
  obtain ⟨v, hv⟩ : ∃ v, segtab? s.params (BitVec.ofNat 4 r.1) = some v :=
    ⟨_, (segtab?_eq_some_iff _ _ _).2 ⟨by omega, rfl⟩⟩
  have hp : legalPosition (BitVec.ofNat 3 r.2) = true := by rw [legalPosition_iff, hpos]; exact hr4
  have hshow := showDigit_run hq hd hu hv hp (State.shownDigit?_eq (s := { s with seg := v }) hw hv)
  rw [Option.map_some, hoperands] at hshow
  exact ⟨_, _, hshow.waits hq, hq, Nat.sub_self _, rfl, rfl, rfl⟩

/-- SHOW_DIGITs in a row come to their end and strobe their digits. -/
theorem showPairs_run {s : State} {l : List (Nat × Nat)} {rest : List Instr} (hl : ∀ r ∈ l, LegalPair r)
    (hq : s.quiet) (hd : s.dly = 0) (hw : s.params.wf) (hu : s.uq = l.map showPair ++ rest) :
    ∃ k t, StrobingRun k s l t ∧ t.uq = rest ∧ t.dly = 0 ∧ t.pcidx = s.pcidx := by
  induction l generalizing s with
  | nil => exact ⟨0, s, .refl s, hu, hd, rfl⟩
  | cons r l ih =>
    obtain ⟨hr, hl⟩ := List.forall_mem_cons.1 hl
    obtain ⟨j, u, hfirst, hqu, hdu, hparams, huq, hpc⟩ := showPair_run hr hq hd hw hu
    obtain ⟨k, t, hothers, htuq, htd, htpc⟩ := ih hl hqu hdu (hparams ▸ hw) huq
    exact ⟨j + k, t, hfirst.append hothers, htuq, htd, htpc.trans hpc⟩

/-! ## The statements -/

/-- Settles O36: the encoding, the refusals with the digit's first, the expansion, and the seven steps of the free
run (`showDigit_run`). -/
theorem showDigitLightsOneDigit : Obligations.ShowDigitLightsOneDigit := by
  unfold Obligations.ShowDigitLightsOneDigit
  refine ⟨fun d p => ?_, fun s d p hd => ?_, fun s d p hd hp => ?_, fun s d p hd hp1 hp4 => ?_,
    fun s d rest hd r hr hq hdly hu => ?_⟩
  · exact (congrArg decode (or_digitPosition 0x28 d p)).trans (Laws.RoundTrip.showDigit d p rfl)
  · rw [exec_showDigit_of_illegal s (by rw [(legalDigit_eq_false_iff d).2 hd, Bool.false_and]), if_pos hd]
  · rw [exec_showDigit_of_illegal s (by rw [(legalPosition_eq_false_iff p).2 hp, Bool.and_false]),
      if_neg (Nat.not_lt.2 hd)]
  · exact exec_showDigit s ((legalDigit_iff d).2 hd) ((legalPosition_iff p).2 ⟨hp1, hp4⟩)
  · obtain ⟨hlegal, hlines⟩ := positionLines_pattern r hr
    have hv := (segtab?_eq_some_iff s.params d _).2 ⟨hd, rfl⟩
    obtain ⟨hrun, -⟩ := showDigit_run hq hdly hu hv hlegal rfl
    rwa [hlines] at hrun

/-- Settles O39: DISPNUM expands to the SHOW_DIGITs of its digits, and these come to their end
(`showPairs_run`). -/
theorem dispnumStrobesItsDigits : Obligations.DispnumStrobesItsDigits := by
  unfold Obligations.DispnumStrobesItsDigits
  intro s v rest hq hd hw hu
  obtain ⟨k, t, hrun, huq, hdly, hpc⟩ :=
    showPairs_run (s := { s with uq := (shownPairs v).map showPair ++ rest }) (shownPairs_legal v) hq hd hw rfl
  obtain ⟨hsafe, hstrobes⟩ := StrobingRun.performs hq hd hu rfl nofun (exec_dispnum v _) hrun
  exact ⟨k + 1, t, hsafe, huq, hdly, hpc, hstrobes⟩

end Sys2Proof.Machine
end

section
/-! SUPPORT. The statements of `41_capture.md` about single steps: the timing primitive (R130 to R134), the edge
detector and the handler (R135 to R141), what the capture registers keep (R149), and the commands of the critical
section (R143 to R146). First the handler's transitions, then what a step that is no handler step leaves alone. -/

namespace Sys2Proof.Machine

/-! ## The handler -/

theorem step_takes_interrupt {s : State} (ht : s.turn = .irq) : step s = .next s.takeInterrupt := by
  simp only [step, takeTurn, ht]

/-- A handler step is taken only where R9 enables it. -/
theorem State.enabled_of_turn_irq {s : State} (ht : s.turn = .irq) : s.ipend = true ∧ s.ie = true := by
  have henabled := stepsTakenAreEnabled s
  rwa [ht] at henabled

/-- R137. -/
theorem State.takeInterrupt_falling {s : State} (he : s.edgeState = .idle) (hl : s.echo = false) :
    s.takeInterrupt = { s with ipend := false, cnt := 0, run := true, edgeState := .timing } := by
  simp [State.takeInterrupt_eq, he, hl]

/-- R139. -/
theorem State.takeInterrupt_rising {s : State} (he : s.edgeState = .timing) (hl : s.echo = true) :
    s.takeInterrupt =
      { s with ipend := false, run := false, pulseTicks := s.cnt, edgeState := .idle } := by
  simp [State.takeInterrupt_eq, he, hl]

/-- R138, R140: the level is not the one the state waits for. -/
theorem State.takeInterrupt_unmatched {s : State} (h : s.edgeState = .idle ↔ s.echo = true) :
    s.takeInterrupt = { s with ipend := false } := by
  cases he : s.edgeState <;> simp_all [State.takeInterrupt_eq]

/-- The handler starts a measurement, completes one, or only clears `IPEND`. -/
theorem State.takeInterrupt_cases (s : State) :
    (s.edgeState = .idle ∧ s.echo = false ∧
      s.takeInterrupt = { s with ipend := false, cnt := 0, run := true, edgeState := .timing }) ∨
    (s.edgeState = .timing ∧ s.echo = true ∧ s.takeInterrupt =
      { s with ipend := false, run := false, pulseTicks := s.cnt, edgeState := .idle }) ∨
    s.takeInterrupt = { s with ipend := false } := by
  have hedge : s.edgeState = .idle ∨ s.edgeState = .timing := by cases s.edgeState <;> decide
  rcases hedge with he | he <;> rcases s.echo.eq_false_or_eq_true with hl | hl
  · exact .inr (.inr (State.takeInterrupt_unmatched (by simp [he, hl])))
  · exact .inl ⟨he, hl, State.takeInterrupt_falling he hl⟩
  · exact .inr (.inl ⟨he, hl, State.takeInterrupt_rising he hl⟩)
  · exact .inr (.inr (State.takeInterrupt_unmatched (by simp [he, hl])))

/-! ## The counter and its run bit outside the handler -/

/-- Only TSTART, TSTOP and the handler write `RUN` (a reset apart). -/
theorem step_keeps_run {s t : State} (h : step s = .next t) (hr : s.takesReset = false) (hirq : s.turn ≠ .irq)
    (hw : ∀ i, s.performs i → i.writesTimer = false) : t.run = s.run := by
  obtain ⟨-, -, -, -, hrun, -⟩ := registersHaveTheirWriters s t h hr
  by_contra hne
  rcases hrun hne with ht | hp | hp
  · exact hirq ht
  · exact nomatch hw _ hp
  · exact nomatch hw _ hp

theorem step_keeps_edgeState {s t : State} (h : step s = .next t) (hr : s.takesReset = false)
    (hirq : s.turn ≠ .irq) : t.edgeState = s.edgeState := by
  obtain ⟨-, -, hedge, -⟩ := registersHaveTheirWriters s t h hr
  exact not_imp_comm.1 hedge hirq

/-- The sequencer takes no ticks, so of its steps TRESET alone moves the counter. -/
theorem step_seq_keeps_cnt {s t : State} (h : step s = .next t) (ht : s.turn = .seq)
    (hp : ¬ s.performs .treset) : t.cnt = s.cnt ∧ s.ticksTaken = 0 := by
  have hr : s.takesReset = false := by simp [State.takesReset, ht]
  have hn : s.ticksTaken = 0 := by simp [State.ticksTaken, ht]
  obtain ⟨-, -, -, hcnt, -⟩ := registersHaveTheirWriters s t h hr
  exact ⟨not_imp_comm.1 hcnt (by simp [ht, hp, hn]), hn⟩

@[simp] theorem countTicks_zero (run : Bool) (cnt : Half) : countTicks run cnt 0 = cnt := by
  simp [countTicks]

/-- A tick of the specification is the model's. -/
theorem oneTick_eq_tick (s : State) : Spec.oneTick s = s.tick := by
  have hcnt : BitVec.ofNat 16 ((s.cnt.toNat + 1) % 65536) = s.cnt + 1 := by
    apply BitVec.eq_of_toNat_eq
    simp [BitVec.toNat_add]
  have hdly : (if s.dly > 0 then s.dly - 1 else s.dly) = s.dly - 1 := by split <;> omega
  rw [Spec.oneTick, hcnt, hdly, State.tick_eq]

theorem State.ticks_eq_iterate (s : State) (n : Nat) : s.ticks n = Spec.oneTick^[n] s := by
  induction n with
  | zero => exact s.ticks_zero
  | succ n ih => rw [State.ticks_succ, Function.iterate_succ_apply', ← ih, oneTick_eq_tick]

/-! ## No timer command queued or programmed -/

/-- The operation performed is one of the queue. -/
theorem State.timerFree.performs {s : State} (hs : s.timerFree) {i : Instr} (hp : s.performs i) :
    i.writesTimer = false := by
  obtain ⟨rest, hu⟩ := List.head?_eq_some_iff.1 hp.2
  exact hs.1 i (by simp [hu])

/-- Neither a fetch from a program without timer commands nor an expansion queues one. -/
theorem State.timerFree.step {s t : State} (hs : s.timerFree) (h : step s = .next t) : t.timerFree := by
  obtain ⟨hq, hprog⟩ := hs
  refine ⟨?_, (parametersNeverChange s t h).2 ▸ hprog⟩
  cases hr : s.takesReset with
  | true =>
    obtain ⟨u, rfl⟩ := step_of_takesReset hr h
    exact nofun
  | false =>
    rcases step_waits_or_moves h hr with ⟨-, ⟨huq, -⟩, -⟩ | ⟨-, -, -, w, i, hw, hd, -, rfl⟩ |
      ⟨-, -, i, rest, hu, hi, he⟩
    · exact huq ▸ hq
    · simpa using hprog _ w i hw hd
    · obtain ⟨-, l, htuq, hl⟩ := exec_command_frame hi he
      rw [hu] at hq
      rw [htuq, List.forall_mem_append]
      exact ⟨fun j hj => (hl j hj).2, (List.forall_mem_cons.1 hq).2⟩

/-! ## The statements -/

/-- Settles O22: a reset leaves Idle with the counter stopped, the handler writes `RUN` and `EDGE_STATE` together,
and every other step keeps both, since no timer command is performed. -/
theorem runBitMatchesTiming : Obligations.RunBitMatchesTiming := by
  unfold Obligations.RunBitMatchesTiming
  intro s t ⟨hfree, hinv⟩ h
  refine ⟨hfree.step h, ?_⟩
  cases hr : s.takesReset with
  | true =>
    obtain ⟨u, rfl⟩ := step_of_takesReset hr h
    exact ⟨nofun, nofun⟩
  | false =>
    by_cases hirq : s.turn = .irq
    · rw [step_takes_interrupt hirq] at h
      obtain rfl := Host.Outcome.next.inj h
      rcases s.takeInterrupt_cases with ⟨-, -, ht⟩ | ⟨-, -, ht⟩ | ht <;> rw [ht]
      · simp
      · simp
      · exact hinv
    · rwa [step_keeps_run h hr hirq fun _ => hfree.performs, step_keeps_edgeState h hr hirq]

/-- Settles O17: the closed form of an EV_TICK is that many ticks one after the other
(`State.ticks_eq_iterate`). -/
theorem tickWordIsThatManyTicks : Obligations.TickWordIsThatManyTicks := by
  unfold Obligations.TickWordIsThatManyTicks
  refine ⟨fun n => ?_, fun s n => ?_⟩
  · exact (congrArg decode (or_imm 0xE1 n)).trans (Laws.RoundTrip.evTick n rfl)
  · rw [exec, execEvTick, State.ticks_eq_iterate]

/-- Settles O19, by whose turn it is: the sequencer takes no ticks, of the stimulus words only EV_TICK moves the
counter, and the clock takes one tick. -/
theorem counterMovesOnlyByTicks : Obligations.CounterMovesOnlyByTicks := by
  unfold Obligations.CounterMovesOnlyByTicks
  intro s t h hirq hr hp
  change t.cnt = countTicks s.run s.cnt s.ticksTaken
  rcases step_cases h with ⟨ht, -⟩ | ⟨ht, -⟩ | ⟨ht, -⟩ | ⟨ht, -⟩ | ⟨w, rest, i, ht, -, hd, hi, he⟩ | ⟨ht, -, -, rfl⟩
  · simp [State.takesReset, ht] at hr
  · exact absurd ht hirq
  · obtain ⟨hcnt, hn⟩ := step_seq_keeps_cnt h ht hp
    rw [hn, countTicks_zero, hcnt]
  · obtain ⟨hcnt, hn⟩ := step_seq_keeps_cnt h ht hp
    rw [hn, countTicks_zero, hcnt]
  · rcases exec_stimulus_cases hi he with ⟨l, rfl, rfl⟩ | ⟨n, rfl, rfl⟩ | ⟨c, rfl, rfl⟩ | ⟨n, rfl, rfl⟩ |
      ⟨rfl, rfl⟩
    · simp [State.senseEcho_eq, State.ticksTaken, ht, hd]
    · simp [State.ticks_eq, State.ticksTaken, ht, hd]
    · simp [State.ticksTaken, ht, hd]
    · simp [State.ticksTaken, ht, hd]
    · simp [State.takesReset, ht, hd] at hr
  · simp [State.tick_eq_ticks_one, State.ticks_eq, State.ticksTaken, ht]

/-- Settles O20: of the writers of R45 only the handler writes `EDGE_STATE`, in two of its transitions. -/
theorem edgeStateChangesOnlyInHandler : Obligations.EdgeStateChangesOnlyInHandler := by
  unfold Obligations.EdgeStateChangesOnlyInHandler
  intro s t h hr hne
  have hirq : s.turn = .irq := not_imp_comm.1 (step_keeps_edgeState h hr) hne
  rw [step_takes_interrupt hirq] at h
  obtain rfl := Host.Outcome.next.inj h
  rcases s.takeInterrupt_cases with ⟨he, hl, ht⟩ | ⟨he, hl, ht⟩ | ht <;> rw [ht] at hne ⊢
  · exact ⟨hirq, .inl ⟨he, hl, rfl⟩⟩
  · exact ⟨hirq, .inr ⟨he, hl, rfl⟩⟩
  · exact absurd rfl hne

/-- Settles O21: of the writers of R45 only the handler writes `PULSE_TICKS`, in one of its transitions. -/
theorem pulseTicksChangesOnlyAtCapture : Obligations.PulseTicksChangesOnlyAtCapture := by
  unfold Obligations.PulseTicksChangesOnlyAtCapture
  intro s t h hr hne
  obtain ⟨-, -, -, -, -, hpulse, -⟩ := registersHaveTheirWriters s t h hr
  have hirq : s.turn = .irq := hpulse hne
  rw [step_takes_interrupt hirq] at h
  obtain rfl := Host.Outcome.next.inj h
  rcases s.takeInterrupt_cases with ⟨-, -, ht⟩ | ⟨he, hl, ht⟩ | ht <;> rw [ht] at hne ⊢
  · exact absurd rfl hne
  · exact ⟨hirq, he, hl, rfl⟩
  · exact absurd rfl hne

/-- Settles O13, one transition of the handler per clause. -/
theorem handlerTakesItsTransition : Obligations.HandlerTakesItsTransition := by
  unfold Obligations.HandlerTakesItsTransition
  intro s hipend hie hrst
  rw [step_takes_interrupt (State.turn_irq hrst ((State.irqEnabled_eq_true_iff s).2 ⟨hipend, hie⟩))]
  refine ⟨fun he hl => ?_, fun he hl => ?_, fun he hl => ?_, fun he hl => ?_⟩
  · rw [State.takeInterrupt_falling he hl]
  · rw [State.takeInterrupt_unmatched (by simp [he, hl])]
  · rw [State.takeInterrupt_rising he hl]
  · rw [State.takeInterrupt_unmatched (by simp [he, hl])]

/-- Settles O15, row by row. -/
theorem captureFunctionTable : Obligations.CaptureFunctionTable := fun _ => ⟨rfl, rfl, rfl, rfl⟩

/-- Settles O16, from the edge detector at a change of level and at the same level. -/
theorem echoChangeRequestsTheInterrupt : Obligations.EchoChangeRequestsTheInterrupt := by
  unfold Obligations.EchoChangeRequestsTheInterrupt
  refine ⟨fun l => ?_, fun s l => ⟨fun hl => ?_, fun hl => ?_⟩⟩
  · cases l <;> rfl
  · simp [exec, execEvEcho, State.senseEcho_eq, hl]
  · rw [exec, execEvEcho, hl, State.senseEcho_same]

/-- Settles O26, command by command: the words by evaluating the decoder, the states by the meanings. -/
theorem timerPrimitive : Obligations.TimerPrimitive :=
  ⟨⟨rfl, fun _ => rfl⟩, ⟨rfl, fun _ => rfl⟩, ⟨rfl, fun _ => rfl⟩, ⟨rfl, fun _ => rfl⟩⟩

/-- Settles O27: a handler step is taken only where R9 enables it, which takes `IE = 1`; after IRQ_EN a pending
request does enable it. -/
theorem interruptEnableCommands : Obligations.InterruptEnableCommands := by
  refine ⟨⟨rfl, fun _ => rfl⟩, ⟨rfl, fun _ => rfl⟩, fun s hie ht => ?_, fun s t h hipend hrst => ?_⟩
  · obtain ⟨-, hen⟩ := State.enabled_of_turn_irq ht
    exact absurd (hie.symm.trans hen) Bool.false_ne_true
  · cases h
    exact State.turn_irq hrst ((State.irqEnabled_eq_true_iff _).2 ⟨hipend, rfl⟩)

/-- Settles O28, bit by bit of the value joined from the two bytes. -/
theorem byteReadsOfPulseTicks : Obligations.ByteReadsOfPulseTicks := by
  have hbits (a b : Half) (k : Nat) (hk : k < 16) :
      (joinBytes (highByte a) (lowByte b)).getLsbD k = if k < 8 then b.getLsbD k else a.getLsbD k := by
    rw [joinBytes_getLsbD, lowByte_getLsbD, highByte_getLsbD]
    split
    · next h => simp [h]
    · next h => simp [show 8 + (k - 8) = k by omega, show k - 8 < 8 by omega]
  exact ⟨⟨rfl, fun s => ⟨_, rfl, hbits s.snap s.pulseTicks⟩⟩, ⟨rfl, fun s => ⟨_, rfl, hbits s.pulseTicks s.snap⟩⟩⟩

end Sys2Proof.Machine
end

section
/-! SUPPORT. The statement of `41_capture.md` about the measured pulse (R142). A run is cut at its first two steps,
which start the measurement, and at its last two, which end it; in between every step keeps `State.Measuring` and
adds its ticks to the count. -/

namespace Sys2Proof.Machine

/-! ## Runs put together -/

theorem SafeRun.one {s t : State} (h : step s = .next t) : SafeRun 1 s t :=
  SafeRun.succ_iff.2 ⟨t, h, SafeRun.zero_iff.2 rfl⟩

theorem SafeRun.add_iff {j k : Nat} {s t : State} :
    SafeRun (j + k) s t ↔ ∃ u, SafeRun j s u ∧ SafeRun k u t := by
  induction j generalizing s with
  | zero => simp [SafeRun.zero_iff]
  | succ j ih =>
    simp only [Nat.succ_add, SafeRun.succ_iff, ih]
    constructor
    · rintro ⟨v, hv, u, hvu, hut⟩
      exact ⟨u, ⟨v, hv, hvu⟩, hut⟩
    · rintro ⟨u, ⟨v, hv, hvu⟩, hut⟩
      exact ⟨v, hv, u, hvu, hut⟩

/-- A run has one end. -/
theorem SafeRun.unique {k : Nat} {s t u : State} (ht : SafeRun k s t) (hu : SafeRun k s u) : t = u :=
  Host.Outcome.next.inj (ht.symm.trans hu)

theorem ticksOver_succ {s t : State} (k : Nat) (h : step s = .next t) :
    ticksOver (k + 1) s = s.ticksTaken + ticksOver k t := by
  rw [ticksOver, h]

/-! ## An edge and its handler -/

/-- A change of level with interrupts enabled is latched and served: two steps from `s` the handler has run, at a
state `v` with the new level and otherwise the capture registers of `s`. -/
theorem edge_run {s : State} {w : Word} {rest : List Word} {l : Bool} (ht : s.turn = .item w rest)
    (hd : decode w = .ok (.evEcho l)) (hl : s.echo = !l) (hie : s.ie = true) :
    ∃ v : State, SafeRun 2 s v.takeInterrupt ∧ v.echo = l ∧ v.ie = true ∧ v.edgeState = s.edgeState ∧
      v.cnt = s.cnt := by
  have hrst : s.rst = false := by
    by_contra hr
    cases ht.symm.trans (State.turn_reset (Bool.eq_true_of_not_eq_false hr))
  have hstep : step s = .next { s with schedule := rest, budget := .idle, echo := l, ipend := true } := by
    rw [step_takes_stimulus ht hd rfl]
    simp [exec, execEvEcho, State.senseEcho_eq, hl]
  exact ⟨_, SafeRun.succ_iff.2 ⟨_, hstep, .one (step_takes_interrupt (State.turn_irq hrst hie))⟩, rfl, hie, rfl, rfl⟩

/-! ## The measurement under way -/

/-- A low pulse is being measured, and the count stands at `c`. -/
structure State.Measuring (s : State) (c : Half) : Prop where
  ie : s.ie = true
  ipend : s.ipend = false
  echo : s.echo = false
  edgeState : s.edgeState = .timing
  run : s.run = true
  cnt : s.cnt = c

/-- The falling edge in Idle and its handler start a measurement at 0. -/
theorem falling_run {s : State} {w : Word} {rest : List Word} (ht : s.turn = .item w rest)
    (hd : decode w = .ok (.evEcho false)) (hecho : s.echo = true) (hie : s.ie = true) (he : s.edgeState = .idle) :
    ∃ v, SafeRun 2 s v ∧ v.Measuring 0 := by
  obtain ⟨v, hrun, hl, hie', he', -⟩ := edge_run ht hd hecho hie
  rw [State.takeInterrupt_falling (he'.trans he) hl] at hrun
  exact ⟨_, hrun, hie', rfl, hl, rfl, rfl, rfl⟩

/-- The rising edge and its handler latch the count and stop the counter. -/
theorem State.Measuring.rising_run {s : State} {c : Half} {w : Word} {rest : List Word} (hs : s.Measuring c)
    (ht : s.turn = .item w rest) (hd : decode w = .ok (.evEcho true)) :
    ∃ t, SafeRun 2 s t ∧ t.pulseTicks = c ∧ t.cnt = c ∧ t.edgeState = .idle ∧ t.run = false ∧ t.echo = true ∧
      t.ipend = false ∧ t.ie = true := by
  obtain ⟨v, hrun, hl, hie, he, hcnt⟩ := edge_run ht hd hs.echo hs.ie
  have hcount : v.cnt = c := hcnt.trans hs.cnt
  rw [State.takeInterrupt_rising (he.trans hs.edgeState) hl] at hrun
  exact ⟨_, hrun, hcount, hcount, rfl, rfl, hl, rfl, hie⟩

/-- No handler step is taken while nothing is pending. -/
theorem State.Measuring.turn_ne_irq {s : State} {c : Half} (hs : s.Measuring c) : s.turn ≠ .irq := by
  intro ht
  obtain ⟨hipend, -⟩ := State.enabled_of_turn_irq ht
  exact absurd (hs.ipend.symm.trans hipend) Bool.false_ne_true

/-- A step that keeps the line low raises no request. -/
theorem State.Measuring.keeps_line {s t : State} {c : Half} (hs : s.Measuring c) (hk : s.keepsTiming)
    (h : step s = .next t) : t.echo = false ∧ t.ipend = false := by
  obtain ⟨hr, hrise, -⟩ := hk
  obtain ⟨hecho, -⟩ := registersHaveTheirWriters s t h hr
  have hlow : t.echo = false := by
    by_contra hhigh
    rw [Bool.not_eq_false] at hhigh
    obtain ⟨w, rest, ht, hd⟩ := hecho (by simp [hhigh, hs.echo])
    exact hrise w rest ht (hhigh ▸ hd)
  refine ⟨hlow, ?_⟩
  by_contra hpend
  obtain ⟨hne, -⟩ := (pendingFlagHasOneSource s t h).1 hs.ipend (Bool.eq_true_of_not_eq_false hpend)
  exact hne (hlow.trans hs.echo.symm)

theorem State.Measuring.step {s t : State} {c : Half} (hs : s.Measuring c) (hk : s.keepsTiming)
    (h : step s = .next t) : t.Measuring (c + BitVec.ofNat 16 s.ticksTaken) := by
  obtain ⟨hecho, hipend⟩ := hs.keeps_line hk h
  obtain ⟨hr, -, hcommands⟩ := hk
  have hie : t.ie = true := by
    by_contra hdis
    rcases interruptEnableHasTwoWriters s t h hr (hs.ie ▸ hdis) with ⟨hp, -⟩ | ⟨-, ht⟩
    · exact (hcommands _ hp).1 rfl
    · exact hdis ht
  have hcnt := counterMovesOnlyByTicks s t h hs.turn_ne_irq hr fun hp => nomatch (hcommands _ hp).2
  rw [hs.run, hs.cnt, if_pos rfl] at hcnt
  exact {
    ie := hie
    ipend := hipend
    echo := hecho
    edgeState := (step_keeps_edgeState h hr hs.turn_ne_irq).trans hs.edgeState
    run := (step_keeps_run h hr hs.turn_ne_irq fun i hp => (hcommands i hp).2).trans hs.run
    cnt := hcnt }

/-- Along a run the count goes up by the ticks of the run. -/
theorem State.Measuring.safeRun {k : Nat} {s t : State} {c : Half} (hs : s.Measuring c) (h : SafeRun k s t)
    (hkeeps : ∀ j < k, ∀ v, SafeRun j s v → v.keepsTiming) :
    t.Measuring (c + BitVec.ofNat 16 (ticksOver k s)) := by
  induction k generalizing s c with
  | zero => simpa [ticksOver, SafeRun.zero_iff.1 h] using hs
  | succ k ih =>
    obtain ⟨u, hstep, hrun⟩ := SafeRun.succ_iff.1 h
    have hu := hs.step (hkeeps 0 (Nat.succ_pos k) s (SafeRun.zero_iff.2 rfl)) hstep
    rw [ticksOver_succ k hstep, BitVec.ofNat_add, ← BitVec.add_assoc]
    exact ih hu hrun fun j hj v hv => hkeeps (j + 1) (Nat.succ_lt_succ hj) v (SafeRun.succ_iff.2 ⟨u, hstep, hv⟩)

/-- Settles O18: the falling edge and its handler start a measurement at 0, the steps in between add their ticks
(`State.Measuring.safeRun`), and the rising edge and its handler latch the count. -/
theorem lowPulseIsMeasured : Obligations.LowPulseIsMeasured := by
  unfold Obligations.LowPulseIsMeasured
  intro s u k w w' rest rest' hie _ hedge hecho ht hd hkeeps hrun ht' hd'
  obtain ⟨v, hsv, hv⟩ := falling_run ht hd hecho hie hedge
  obtain ⟨v', hsv', hvu⟩ := SafeRun.add_iff.1 hrun
  obtain rfl := hsv.unique hsv'
  have hu := hv.safeRun hvu fun j hj x hx => hkeeps j hj x (SafeRun.add_iff.2 ⟨v, hsv, hx⟩)
  rw [zero_add] at hu
  obtain ⟨t, hut, hpulse, hcnt, hend⟩ := hu.rising_run ht' hd'
  refine ⟨t, SafeRun.add_iff.2 ⟨u, hrun, hut⟩, fun x hx => ?_, hend⟩
  obtain rfl := hsv.unique hx
  exact ⟨hpulse, hcnt⟩

end Sys2Proof.Machine
end

section
/-! SUPPORT. The statements of `41_capture.md` about SNAPSHOT (R147): its five steps in the free run (log 5), and its
phases whatever other agents do in between. -/

namespace Sys2Proof.Machine

/-! ## The free run -/

/-- The sequencer's step with the head of the queue, and the run that follows. -/
theorem SafeRun.performs {k : Nat} {s u t : State} {i : Instr} {rest : List Instr} (hq : s.quiet) (hd : s.dly = 0)
    (hu : s.uq = i :: rest) (hi : i.isStimulus = false) (he : exec i { s with uq := rest } = .next u)
    (h : SafeRun k u t) : SafeRun (k + 1) s t :=
  SafeRun.succ_iff.2 ⟨u, (hq.step_performs hd hu hi).trans he, h⟩

/-- Settles O29: the expansion, and its steps one by one in the free run; the two byte reads make the copy
whole. -/
theorem snapshotCopiesPulseTicks : Obligations.SnapshotCopiesPulseTicks := by
  refine ⟨rfl, fun _ => rfl, fun s rest hq hd hu => ?_⟩
  refine .performs hq hd hu rfl rfl ?_
  refine .performs hq hd rfl rfl rfl ?_
  refine .performs hq hd rfl rfl rfl ?_
  refine .performs hq hd rfl rfl rfl ?_
  refine .performs hq hd rfl rfl rfl (SafeRun.zero_iff.2 ?_)
  simp [State.setIe, State.writeSnap, State.pushFront, joinBytes_self]

/-! ## The phases of a SNAPSHOT -/

theorem sameLowByte_refl (a : Half) : sameLowByte a a := fun _ _ => rfl

/-- While another agent moves, `UQ`, `SNAP` and `IE` stand still. -/
theorem step_waits {s t : State} (h : step s = .next t) (hr : s.takesReset = false) (ht : s.turn ≠ .seq) :
    t.uq = s.uq ∧ t.snap = s.snap ∧ t.ie = s.ie := by
  rcases step_waits_or_moves h hr with
    ⟨-, ⟨huq, -, -, -, -, -, hsnap, -, -, -, hie, -⟩, -⟩ | ⟨hseq, -⟩ | ⟨hseq, -⟩
  · exact ⟨huq, hsnap, hie⟩
  · exact absurd hseq ht
  · exact absurd hseq ht

/-- `IE = 0` in the phases between IRQ_DIS and IRQ_EN, so `PULSE_TICKS` stands still. -/
theorem State.snapshotPhase.keeps_pulseTicks {s t : State} {rest : List Instr} {n : Nat}
    (hs : s.snapshotPhase rest n) (hn : n ≤ 3) (h1 : 1 ≤ n) (h : step s = .next t) (hr : s.takesReset = false) :
    t.pulseTicks = s.pulseTicks := by
  obtain ⟨-, hie, -⟩ := hs
  exact step_keeps_pulseTicks h hr (.inl (hie h1 hn))

/-- Another agent's step keeps the phase. -/
theorem State.snapshotPhase.waits {s t : State} {rest : List Instr} {n : Nat} (hs : s.snapshotPhase rest n)
    (hn : n ≤ 3) (h : step s = .next t) (hr : s.takesReset = false) (ht : s.turn ≠ .seq) :
    t.snapshotPhase rest n := by
  obtain ⟨huq, hsnap, hie⟩ := step_waits h hr ht
  have hpulse (h1 : 1 ≤ n) : t.pulseTicks = s.pulseTicks := hs.keeps_pulseTicks hn h1 h hr
  obtain ⟨hq, hdis, hlow, hwhole, hen⟩ := hs
  refine ⟨huq.trans hq, hie ▸ hdis, fun h2 => ?_, fun h3 => ?_, hie ▸ hen⟩
  · rw [hsnap, hpulse (by omega)]
    exact hlow h2
  · rw [hsnap, hpulse (by omega)]
    exact hwhole h3

/-- The sequencer's step goes one phase further. -/
theorem State.snapshotPhase.performs {s t : State} {rest : List Instr} {n : Nat} (hs : s.snapshotPhase rest n)
    (hn : n ≤ 3) (h : step s = .next t) (ht : s.turn = .seq) : t.snapshotPhase rest (n + 1) := by
  obtain ⟨hq, hdis, hlow, hwhole, -⟩ := hs
  interval_cases n <;> rw [step_performs ht hq rfl] at h <;> cases h
  · simp [State.snapshotPhase]
  · simpa [State.snapshotPhase, hdis] using sameLowByte_joinBytes _ _
  · simpa [State.snapshotPhase, hdis, joinBytes_of_sameLowByte (hlow le_rfl)] using sameLowByte_refl s.pulseTicks
  · simpa [State.snapshotPhase, hwhole] using sameLowByte_refl s.pulseTicks

/-- Settles O60: SNAPSHOT at the head waits or expands to its first phase, and every step keeps a phase or, being
the sequencer's, takes it one further. -/
theorem snapshotInEveryInterleaving : Obligations.SnapshotInEveryInterleaving := by
  unfold Obligations.SnapshotInEveryInterleaving
  intro s t rest h hr
  refine ⟨fun hu => ?_, fun n hn hs => ⟨?_, fun h1 => hs.keeps_pulseTicks hn h1 h hr⟩⟩
  · rcases step_waits_or_performs h hr hu with ⟨huq, -⟩ | he
    · exact .inl huq
    · cases he
      exact .inr (by simp [State.snapshotPhase])
  · by_cases ht : s.turn = .seq
    · exact .inr (hs.performs hn h ht)
    · exact .inl (hs.waits hn h hr ht)

end Sys2Proof.Machine
end

section
/-! SUPPORT. The statements of `42_host.md` about single operations: the speed selector (R173), the conversion (R174),
the iteration counter (R175, R176) and the main loop's two composites (R177, R178). First the values these operations
compute, then the meanings, then the statements. -/

namespace Sys2Proof.Machine

/-! ## The values computed -/

/-- The table of R173: the lowest line that is low picks the preset. -/
theorem selectedPreset_table (c : BitVec 3) :
    (c = 0b000 ∨ c = 0b010 ∨ c = 0b100 ∨ c = 0b110 → selectedPreset c = some .fast) ∧
    (c = 0b001 ∨ c = 0b101 → selectedPreset c = some .slow) ∧
    (c = 0b011 → selectedPreset c = some .off) ∧
    (c = 0b111 → selectedPreset c = none) := by
  revert c; decide

theorem ofNat_succ_mod (v : Half) : BitVec.ofNat 16 ((v.toNat + 1) % 65536) = v + 1 := by
  apply BitVec.eq_of_toNat_eq
  simp [BitVec.toNat_add]

theorem cadenceReached_iff (iter cadence : Half) :
    cadenceReached iter cadence = true ↔ cadence.toNat ≤ iter.toNat ∧ cadence ≠ 65535 := by
  simp [cadenceReached, Preset.value]

theorem cadenceReached_eq_false_iff (iter cadence : Half) :
    cadenceReached iter cadence = false ↔ iter.toNat < cadence.toNat ∨ cadence = 65535 := by
  rw [← Bool.not_eq_true, cadenceReached_iff, not_and_or, Nat.not_le, not_not]

/-! ## The meanings -/

theorem exec_selcad_some {s : State} {p : Preset} (hp : selectedPreset s.csel = some p) :
    exec .selcad s = .next { s with cadence := p.value } := by
  rw [exec, execSelcad, hp]; rfl

theorem exec_selcad_none {s : State} (hp : selectedPreset s.csel = none) : exec .selcad s = .next s := by
  rw [exec, execSelcad, hp]; rfl

theorem exec_miCheck_reached {s : State} (h : cadenceReached s.iter s.cadence = true) :
    exec .miCheck s = .next { s with uq := [.snapshot, .conv, .trigger, .iterClr] ++ s.uq } := by
  rw [exec, execMiCheck, if_pos h]; rfl

theorem exec_miCheck_notReached {s : State} (h : cadenceReached s.iter s.cadence = false) :
    exec .miCheck s = .next s := by
  rw [exec, execMiCheck, h]; rfl

/-! ## The statements -/

/-- Settles O41: the table says which preset the lines pick, and SELCAD takes it or keeps `CADENCE`. -/
theorem selectLinesPickTheCadence : Obligations.SelectLinesPickTheCadence := by
  refine ⟨rfl, fun s => ?_⟩
  obtain ⟨hfast, hslow, hoff, hnone⟩ := selectedPreset_table s.csel
  exact ⟨fun h => exec_selcad_some (hfast h), fun h => exec_selcad_some (hslow h),
    fun h => exec_selcad_some (hoff h), fun h => exec_selcad_none (hnone h)⟩

/-- Settles O42: the division of words is the division of the naturals, and 65535 div 58 = 1129
(`conversion_le`). -/
theorem conversionDividesByFiftyEight : Obligations.ConversionDividesByFiftyEight := by
  refine ⟨rfl, fun s => ⟨?_, ?_⟩⟩
  · rw [exec, execConv, BitVec.udiv_def]; rfl
  · exact BitVec.toNat_udiv.symm.trans_le (conversion_le s.snap)

/-- Settles O43: adding one to a word is adding one modulo 65536 (`ofNat_succ_mod`). -/
theorem iterationCounterCounts : Obligations.IterationCounterCounts := by
  refine ⟨⟨rfl, fun _ => ?_⟩, rfl, fun _ => rfl⟩
  rw [ofNat_succ_mod]; rfl

/-- Settles O44, by whether the cadence is reached. -/
theorem cadenceCheckSchedulesACycle : Obligations.CadenceCheckSchedulesACycle :=
  ⟨rfl, fun _ => ⟨fun hle hne => exec_miCheck_reached ((cadenceReached_iff _ _).2 ⟨hle, hne⟩),
    fun h => exec_miCheck_notReached ((cadenceReached_eq_false_iff _ _).2 h)⟩⟩

/-- Settles O45: the expansion is the meaning of MAIN_ITER, with `DISTANCE_CM` as it stands. -/
theorem mainIterationExpands : Obligations.MainIterationExpands := ⟨rfl, fun _ => rfl⟩

end Sys2Proof.Machine
end

section
/-! SUPPORT. The statements of `42_host.md` about the trigger pulse (R170 to R172): its width in the free run (log 5),
and its phases whatever other agents do in between. -/

namespace Sys2Proof.Machine

/-! ## The free run -/

/-- The ticks of a delay, as long as it runs. -/
theorem SafeRun.ticks {k : Nat} {s : State} (hq : s.quiet) (hk : k ≤ s.dly) :
    SafeRun k s { s with cnt := countTicks s.run s.cnt k, dly := s.dly - k } :=
  (StrobingRun.ticks hq k hk).1

/-- The three steps of a TRIGGER that raise the pulse: `TRIG` is 1 and the delay is loaded. -/
theorem trigger_rises {s : State} {rest : List Instr} (hq : s.quiet) (hd : s.dly = 0)
    (hu : s.uq = .trigger :: rest) :
    SafeRun 3 s { s with uq := .trigLo :: rest, trig := true, dly := 10 * s.params.ticksPerUs } := by
  refine .performs hq hd hu rfl rfl ?_
  refine .performs hq hd rfl rfl rfl ?_
  exact .performs hq hd rfl rfl rfl (SafeRun.zero_iff.2 rfl)

/-- As long as the delay runs the pulse stays up and the clock ticks. -/
theorem trigger_holds {s : State} {rest : List Instr} (hq : s.quiet) (hd : s.dly = 0)
    (hu : s.uq = .trigger :: rest) {j : Nat} (hj : j ≤ 10 * s.params.ticksPerUs) :
    SafeRun (3 + j) s { s with
      uq := .trigLo :: rest, trig := true, dly := 10 * s.params.ticksPerUs - j
      cnt := countTicks s.run s.cnt j } :=
  SafeRun.add_iff.2 ⟨_, trigger_rises hq hd hu, .ticks hq hj⟩

/-- Settles O40: the pulse is raised in three steps, it stays up while the delay runs (`trigger_holds`), and with
the delay over the next step is TRIG_LO. -/
theorem triggerPulseHasItsWidth : Obligations.TriggerPulseHasItsWidth := by
  refine ⟨⟨rfl, fun _ => rfl⟩, ⟨rfl, fun _ => rfl⟩, ⟨rfl, fun _ => rfl⟩, fun s rest hq hd hu => ?_⟩
  refine ⟨fun j hj => trigger_holds hq hd hu hj, ?_⟩
  have hheld := trigger_holds hq hd hu le_rfl
  rw [Nat.sub_self, ← hd] at hheld
  exact SafeRun.add_iff.2 ⟨_, hheld, .performs hq hd rfl rfl rfl (SafeRun.zero_iff.2 rfl)⟩

/-! ## One step against the pulse -/

/-- The operation at the head of `UQ` waits, with `TRIG` as it is and `DLY` going down by the ticks taken, or, at
`DLY = 0`, it is taken off and performed. -/
theorem step_keepsTrig_or_performs {s t : State} {i : Instr} {rest : List Instr} (h : step s = .next t)
    (hr : s.takesReset = false) (hu : s.uq = i :: rest) :
    (t.uq = s.uq ∧ t.trig = s.trig ∧ t.dly = s.dly - s.ticksTaken) ∨
      (s.dly = 0 ∧ exec i { s with budget := s.budget.spend, uq := rest } = .next t) := by
  rcases step_waits_or_moves h hr with ⟨-, ⟨huq, -, htrig, -, -, -, -, -, -, -, -, -, -, hdly⟩, -⟩ |
    ⟨-, -, hnil, -⟩ | ⟨-, hd, j, rest', hu', -, he⟩
  · exact .inl ⟨huq, htrig, hdly⟩
  · simp [hu] at hnil
  · obtain ⟨rfl, rfl⟩ := List.cons.inj (hu.symm.trans hu')
    exact .inr ⟨hd, he⟩

/-- Settles O59, operation by operation: each waits with the pulse as it is, or is performed. -/
theorem triggerPulseInEveryInterleaving : Obligations.TriggerPulseInEveryInterleaving := by
  unfold Obligations.TriggerPulseInEveryInterleaving
  intro s t rest h hr
  refine ⟨fun hu => ?_, fun hu => ?_, fun hu hhigh => ?_, fun hu hhigh => ?_⟩ <;>
    rcases step_keepsTrig_or_performs h hr hu with ⟨huq, htrig, hdly⟩ | ⟨hd, he⟩
  · exact ⟨htrig, .inl huq⟩
  · cases he; exact ⟨rfl, .inr rfl⟩
  · exact .inl ⟨huq, htrig⟩
  · cases he; exact .inr ⟨rfl, rfl⟩
  · exact ⟨htrig.trans hhigh, .inl huq⟩
  · cases he; exact ⟨hhigh, .inr ⟨rfl, rfl⟩⟩
  · exact .inl ⟨huq, htrig.trans hhigh, hdly⟩
  · cases he; exact .inr ⟨hd, rfl, rfl⟩

end Sys2Proof.Machine
end

section
/-! SUPPORT. The statements of `43_environment.md`: the stimulus words EV_CSEL, EV_RESET and EV_RUN (R192, R193,
R195), the reset line (R193), and when the sequencer moves and when the schedule does (R195). First what a spent
EV_RUN leaves, then the words and the step of the reset line, then the statements. -/

namespace Sys2Proof.Machine

/-! ## The budget of an EV_RUN -/

/-- A step of an EV_RUN with steps left leaves one less, and the last one ends it. -/
theorem Budget.spend_upTo {n : Nat} (hn : 0 < n) :
    (Budget.upTo n).spend = if n = 1 then .idle else .upTo (n - 1) := by
  simp only [Budget.spend, show n ≤ 1 ↔ n = 1 by omega]

/-- An EV_RUN lets the sequencer take the turn only while one is in progress and the sequencer is ready. -/
theorem State.active_and_seqReady_eq_false {s : State} (h : s.budget = .idle ∨ s.seqReady = false) :
    (s.budget.active && s.seqReady) = false := by
  rcases h with hidle | hwaits
  · rw [hidle]; rfl
  · rw [hwaits, Bool.and_false]

/-! ## The select lines' word and the reset line -/

/-- The format C word of EV_CSEL as the spec writes it, `op << 24 | c`. -/
theorem or_lines_evCsel : ∀ c : BitVec 3, 0xE2000000 ||| c.setWidth 32 = encode (.evCsel c) := by
  decide

/-- The step at an asserted reset line is the reset step, which deasserts the line with every other register. -/
theorem step_takes_reset {s : State} (ht : s.turn = .reset) : step s = .next s.resetStep := by
  rw [step, takeTurn, ht]; rfl

/-! ## The statements -/

/-- Settles O8: the item is taken off the schedule and decoded, and a stimulus word is performed. -/
theorem scheduleItemsTakeTheirEffect : Obligations.ScheduleItemsTakeTheirEffect :=
  fun _ _ _ _ => step_takes_stimulus

/-- Settles O12: the reset line is looked at before the pending interrupt, the delay and the schedule
(`State.turn_reset`), and its step is the reset step. -/
theorem resetLineWinsInEveryState : Obligations.ResetLineWinsInEveryState := by
  unfold Obligations.ResetLineWinsInEveryState
  intro s hrst
  rw [step_takes_reset (State.turn_reset hrst), State.resetStep_eq]

/-- Settles O46: the word is the encoding of EV_CSEL c, whose meaning is the one write of `CSEL`. -/
theorem selectLinesFollowTheEnvironment : Obligations.SelectLinesFollowTheEnvironment := by
  unfold Obligations.SelectLinesFollowTheEnvironment
  refine ⟨fun c => ?_, fun _ _ => rfl⟩
  exact (congrArg decode (or_lines_evCsel c)).trans (Laws.RoundTrip.evCsel c rfl)

/-- Settles O47, with the reset step as the state answered: each register reads back its value of R44, and the
inputs, the parameters and the run read back as they were. -/
theorem resetGivesEveryRegisterItsValue : Obligations.ResetGivesEveryRegisterItsValue := by
  refine ⟨rfl, fun s => ⟨s.resetStep, rfl, ?_⟩⟩
  simp [State.resetStep_eq, State.powerOn]

/-- Settles O49: an EV_RUN in progress gives a ready sequencer the turn (`State.turn_seq`) and each step uses one
up; without one, or with the sequencer not ready, the schedule has the turn (`State.turn_item`). -/
theorem evRunLetsTheSequencerMove : Obligations.EvRunLetsTheSequencerMove := by
  unfold Obligations.EvRunLetsTheSequencerMove
  refine ⟨fun n => ?_, fun _ _ => rfl, fun s hrst hirq hready => ⟨fun hb => ?_, fun n hb hn => ?_⟩,
    fun s w rest hrst hirq hsched hb => ?_⟩
  · exact (congrArg decode (or_imm 0xE3 n)).trans (Laws.RoundTrip.evRun n rfl)
  · exact ⟨State.turn_seq hrst hirq (by rw [hb]; rfl) hready, by rw [hb]; rfl⟩
  · have hactive : s.budget.active = true := by rw [hb]; exact decide_eq_true hn
    exact ⟨State.turn_seq hrst hirq hactive hready, by rw [hb, Budget.spend_upTo hn]⟩
  · exact State.turn_item hrst hirq (State.active_and_seqReady_eq_false hb) hsched

end Sys2Proof.Machine
end

section
/-! SUPPORT. The statements of `60_exceptions.md`: the frame of the handler's step (R204) and the closed list of
refusals (R213). First which outcomes an operation and a fetch can have, then the steps that no earlier rule names,
then the statements. -/

namespace Sys2Proof.Machine

/-! ## The outcomes of an operation and of a fetch -/

/-- The reasons of Refuse that R213 lists. -/
def Refusal.IsListed (r : Refusal) : Prop :=
  r = .digitOutOfRange ∨ r = .positionOutOfRange ∨ r = .reservedEncoding ∨ r = .stimulusInProgram ∨
    r = .commandInSchedule

/-- An outcome that R11 and R213 allow: a next state or a listed refusal. -/
def IsListedOutcome (o : Host.Outcome State Fault Refusal) : Prop :=
  (∃ t, o = .next t) ∨ ∃ r, o = .refused r ∧ r.IsListed

theorem isListedOutcome_next (t : State) : IsListedOutcome (.next t) := .inl ⟨t, rfl⟩

/-- The list leaves out one reason of the model, the arm without a meaning. -/
theorem isListedOutcome_refused {r : Refusal} (h : ∀ mnemonic, r ≠ .notModelled mnemonic) :
    IsListedOutcome (.refused r) := by
  refine .inr ⟨r, rfl, ?_⟩
  cases r with
  | notModelled mnemonic => exact absurd rfl (h mnemonic)
  | digitOutOfRange | positionOutOfRange | reservedEncoding | stimulusInProgram | commandInSchedule =>
    simp [Refusal.IsListed]

/-- An operation with legal operands completes, and one with an illegal operand is refused for its digit or its
position (R86). -/
theorem exec_isListedOutcome (i : Instr) (s : State) : IsListedOutcome (exec i s) := by
  obtain ⟨hlegal, hillegal⟩ := legalOperationsComplete i s
  cases hi : i.legal with
  | true => exact .inl (hlegal hi)
  | false =>
    rw [hillegal hi]
    split
    · exact isListedOutcome_refused nofun
    · split <;> exact isListedOutcome_refused nofun
    · exact isListedOutcome_refused nofun

theorem fetchWord_isListedOutcome (w : Word) (s : State) : IsListedOutcome (fetchWord w s) := by
  cases hd : decode w with
  | error e =>
    rw [fetchWord_error hd]
    exact isListedOutcome_refused nofun
  | ok i =>
    cases hi : i.isStimulus with
    | true =>
      rw [fetchWord_stimulus hd hi]
      exact isListedOutcome_refused nofun
    | false =>
      rw [fetchWord_command hd hi]
      exact isListedOutcome_next _

/-! ## The steps of the agents -/

/-- A stimulus operation at the head of `UQ` is refused like one that is fetched (log 13). -/
theorem step_refuses_queued_stimulus {s : State} {i : Instr} {rest : List Instr} (ht : s.turn = .seq)
    (hu : s.uq = i :: rest) (hi : i.isStimulus = true) : step s = .refused .stimulusInProgram := by
  simp [step, takeTurn, ht, seqStep, hu, hi]

theorem step_takes_tick {s : State} (ht : s.turn = .clk) :
    step s = .next ({ s with budget := .idle } : State).tick := by
  simp only [step, takeTurn, ht]

/-- The sequencer has the turn only when it is ready, so with `UQ` empty there is a word to fetch. -/
theorem step_seq_isListedOutcome {s : State} (ht : s.turn = .seq) (hready : s.seqReady = true) :
    IsListedOutcome (step s) := by
  obtain ⟨-, hnext⟩ := (State.seqReady_eq_true_iff s).1 hready
  cases hu : s.uq with
  | nil =>
    obtain ⟨w, hw⟩ := Option.ne_none_iff_exists'.1 (hnext.resolve_left (not_not_intro hu))
    rw [step_fetches ht hu hw]
    exact fetchWord_isListedOutcome _ _
  | cons i rest =>
    cases hi : i.isStimulus with
    | true =>
      rw [step_refuses_queued_stimulus ht hu hi]
      exact isListedOutcome_refused nofun
    | false =>
      rw [step_performs ht hu hi]
      exact exec_isListedOutcome _ _

theorem step_item_isListedOutcome {s : State} {w : Word} {rest : List Word} (ht : s.turn = .item w rest) :
    IsListedOutcome (step s) := by
  cases hd : decode w with
  | error e =>
    rw [step_takes_item ht, scheduleStep_error hd]
    exact isListedOutcome_refused nofun
  | ok i =>
    cases hi : i.isStimulus with
    | true =>
      rw [step_takes_stimulus ht hd hi]
      exact exec_isListedOutcome _ _
    | false =>
      rw [step_takes_item ht, scheduleStep_command hd hi]
      exact isListedOutcome_refused nofun

/-! ## The statements -/

/-- Settles O56, by whose turn it is: the reset, the handler and the clock are never refused; the sequencer and the
schedule refuse a word or an operand for a listed reason only. -/
theorem refusalsAreTheClosedList : Obligations.RefusalsAreTheClosedList := by
  unfold Obligations.RefusalsAreTheClosedList
  intro s
  change IsListedOutcome (step s)
  rcases s.turn_cases with ⟨ht, -⟩ | ⟨-, ⟨ht, -⟩ | ⟨-, ⟨ht, hready⟩ | ⟨w, rest, ht, -⟩ | ⟨ht, -⟩⟩⟩
  · rw [step_takes_reset ht]
    exact isListedOutcome_next _
  · rw [step_takes_interrupt ht]
    exact isListedOutcome_next _
  · exact step_seq_isListedOutcome ht hready
  · exact step_item_isListedOutcome ht
  · rw [step_takes_tick ht]
    exact isListedOutcome_next _

/-- Settles O14: the handler's step writes only `IPEND`, `EDGE_STATE`, `CNT`, `RUN` and `PULSE_TICKS`
(`State.takeInterrupt_eq`), and every other field reads back as it was. -/
theorem interruptLeavesMainContextAlone : Obligations.InterruptLeavesMainContextAlone := by
  unfold Obligations.InterruptLeavesMainContextAlone
  intro s t ht h
  obtain rfl := Host.Outcome.next.inj ((step_takes_interrupt ht).symm.trans h)
  simp [State.takeInterrupt_eq]

end Sys2Proof.Machine
end

section
/-! SUPPORT. The statement of `70_reset_and_hazards.md` about merged edges (R237). With interrupts disabled and no
EV_RUN in progress the schedule moves; a change of level there only latches the level and the request. -/

namespace Sys2Proof.Machine

/-! ## The schedule while interrupts are disabled -/

theorem State.irqEnabled_eq_false_of_masked {s : State} (hie : s.ie = false) : s.irqEnabled = false := by
  rw [State.irqEnabled, hie, Bool.and_false]

/-- With interrupts disabled and no EV_RUN in progress, the stimulus at the head of the schedule takes its effect. -/
theorem step_masked_stimulus {s : State} {i : Instr} {rest : List Word} (hrst : s.rst = false) (hie : s.ie = false)
    (hbudget : s.budget = .idle) (hsched : s.schedule = encode i :: rest) (henc : i.encodable = true)
    (hi : i.isStimulus = true) : step s = exec i { s with schedule := rest, budget := .idle } :=
  step_takes_stimulus (State.turn_item hrst (State.irqEnabled_eq_false_of_masked hie)
    (State.active_and_seqReady_eq_false (.inl hbudget)) hsched) (decodeEncodeAgree i henc) hi

/-- A change of level while interrupts are disabled is latched with its request (R135), and nothing serves it. -/
theorem step_masked_edge {s : State} {l : Bool} {rest : List Word} (hrst : s.rst = false) (hie : s.ie = false)
    (hbudget : s.budget = .idle) (hsched : s.schedule = encode (.evEcho l) :: rest) (hl : l = !s.echo) :
    step s = .next { s with schedule := rest, budget := .idle, echo := l, ipend := true } := by
  subst hl
  rw [step_masked_stimulus hrst hie hbudget hsched rfl rfl, exec, execEvEcho]
  exact congrArg _ (State.senseEcho_edge _)

/-- The ticks of an EV_TICK while interrupts are disabled. -/
theorem step_masked_ticks {s : State} {n : Half} {rest : List Word} (hrst : s.rst = false) (hie : s.ie = false)
    (hbudget : s.budget = .idle) (hsched : s.schedule = encode (.evTick n) :: rest) :
    step s = .next ({ s with schedule := rest, budget := .idle }.ticks n.toNat) := by
  rw [step_masked_stimulus hrst hie hbudget hsched rfl rfl, exec, execEvTick]

/-- The handler that finds the level its state does not wait for only clears `IPEND` (R138, R140). -/
theorem step_interrupt_unmatched {s : State} (hrst : s.rst = false) (hipend : s.ipend = true) (hie : s.ie = true)
    (h : s.edgeState = .idle ↔ s.echo = true) : step s = .next { s with ipend := false } := by
  rw [step_takes_interrupt (State.turn_irq hrst ((State.irqEnabled_eq_true_iff s).2 ⟨hipend, hie⟩)),
    State.takeInterrupt_unmatched h]

/-! ## The statement -/

/-- Settles O25, step by step: a change, the ticks and a change back leave the level as it was with one request
pending, so the handler finds the level its state does not wait for. -/
theorem edgesMergeWhileDisabled : Obligations.EdgesMergeWhileDisabled := by
  unfold Obligations.EdgesMergeWhileDisabled
  intro s n hrst hie hbudget hline hsched
  have hmatch : s.edgeState = .idle ↔ s.echo = true := by rw [hline, decide_eq_true_iff]
  have hchange := step_masked_edge hrst hie hbudget hsched rfl
  have hrun := SafeRun.succ_iff.2 ⟨_, hchange, SafeRun.succ_iff.2 ⟨_, step_masked_ticks hrst hie rfl rfl,
    .one (step_masked_edge hrst hie rfl rfl s.echo.not_not.symm)⟩⟩
  exact ⟨_, hrun, rfl, rfl, rfl, rfl, rfl, step_interrupt_unmatched hrst rfl rfl hmatch⟩

end Sys2Proof.Machine
end
